-- ==== Sys2Proof/Word.lean ====
section
/-! DEFINITION. The word types of GWFD: the unsigned widths u8, u16 and u32 of 00_scope.md rule R15. -/

namespace Sys2Proof

/-- u8: a frame byte, an opcode or an immediate (R15). -/
abbrev Byte := BitVec 8

/-- u16: a command word, the CRC accumulator, a 16-bit field (R11, R15). -/
abbrev Half := BitVec 16

/-- u32: a read-port word, a power, the total yield (R11, R15). -/
abbrev Word := BitVec 32

end Sys2Proof
end

