-- ==== Sys2Proof/Machine/Operands.lean ====
section
/-! DEFINITION. The operand forms: the two fields of a command word (30_encoding.md rules R71, R72), and
the byte-order conversions between wire bytes, register values and read-port byte lanes (43_fields.md
rules R150 to R153, 20_memory.md rules R53 to R55). -/

namespace Sys2Proof.Machine

/-- `OP`, bits [15:8] of a command word (R71). -/
def opField (w : Half) : Byte := w.extractLsb' 8 8

/-- `IMM8`, bits [7:0] of a command word (R71); the operand `b` of R72 as it stands. -/
def imm8Field (w : Half) : Byte := w.extractLsb' 0 8

/-- Two wire bytes, the more significant first, as a u16 (R15 `{hi, lo}`, R53, R150). -/
def join16 (hi lo : Byte) : Half := hi ++ lo

/-- Four wire bytes, the most significant first, as a u32 (R53, R151). -/
def join32 (b3 b2 b1 b0 : Byte) : Word := (b3 ++ b2 : BitVec 16) ++ (b1 ++ b0 : BitVec 16)

/-- `le16(lo, hi)` (R54, R152): the CRC trailer's byte order. -/
def le16 (lo hi : Byte) : Half := hi ++ lo

/-- `swap16` of R153: the two bytes of a u16 exchanged. -/
def swap16 (x : Half) : Half := ((x &&& 0x00FF#16) <<< 8) ||| (x >>> 8)

/-- The byte lanes of a read word, lane 0 first (R55, R153). -/
def byteLanes (v : Word) : List Byte :=
  [v.extractLsb' 0 8, v.extractLsb' 8 8, v.extractLsb' 16 8, v.extractLsb' 24 8]

/-- A u16 as wire bytes in the trailer's order, low byte first (R54, R107, R138). -/
def wireBytesLE (v : Half) : List Byte := [v.extractLsb' 0 8, v.extractLsb' 8 8]

end Sys2Proof.Machine
end

