-- ==== Sys2Proof/Syntax.lean ====
section
/-! DEFINITION. What the host can say to GWFD: the six commands (30_encoding.md rule R73), the shape of
a row of their encoding table, the reasons a word is no command (R74, R75), the three host interactions
(20_memory.md rule R66) and the lines of an assembler program (R77 to R83). -/

namespace Sys2Proof

/-- The six commands of R73, one constructor a row of spec/opcode_table.json. The only operand is the
unsigned byte of R72. -/
inductive Instr where
  /-- NOP (R91). -/
  | nop
  /-- CRC.INIT (R105). -/
  | crcInit
  /-- CRC.BYTE b (R106). -/
  | crcByte (b : Byte)
  /-- FRAME.CLEAR (R120). -/
  | frameClear
  /-- FRAME.PUSH b (R124). -/
  | framePush (b : Byte)
  /-- FRAME.DECODE (R127). -/
  | frameDecode
deriving DecidableEq, Repr

/-- Why a command word is illegal (R74, R75). -/
inductive IllegalWord where
  /-- The opcode is not in the map of R73. -/
  | reservedOpcode (op : Byte)
  /-- A no-operand opcode stands with a non-zero IMM8. -/
  | nonzeroImm8 (op imm8 : Byte)
deriving DecidableEq, Repr

/-- One row of the opcode map R73: the mask, the value to match under it, and the command that the
row's IMM8 gives. -/
structure OpcodeRow where
  mnemonic : String
  pattern  : Half
  mask     : Half
  build    : Byte → Instr

/-- What the host can do to the block (R66). -/
inductive Interaction where
  /-- Issue one 16-bit command word. -/
  | command (w : Half)
  /-- Read one address of the read port. -/
  | read (a : Byte)
  /-- Assert reset. -/
  | reset
deriving DecidableEq, Repr

/-- The names that may begin a program line: the commands (R73), the pseudo-instructions (R79 to R81),
the host read (R82) and the raw-word directive (R83). -/
inductive Mnemonic where
  | nop | crcInit | crcByte | frameClear | framePush | frameDecode
  | crcSeq | frameLoad | framePoll | rd | dotWord
deriving DecidableEq, Repr

/-- A program line as written: its name, the numbers after it, and for a host read the word that the
line says is returned (R82). Whether the numbers fit is `SourceLine.wellFormed`. -/
structure SourceLine where
  name     : Mnemonic
  operands : List Nat
  expected : Option Nat := none
deriving DecidableEq, Repr

/-- What the assembler answers instead of an encoding (R78: it "encodes nothing"). -/
inductive AsmError where
  /-- The line begins with no name of R73 or R79 to R83. -/
  | unknownMnemonic
  /-- An operand is not written as R78 says. -/
  | badNumber
  /-- An operand is out of its range, or one is missing or extra (R78, R83). -/
  | illFormed
  /-- The operand does not follow its mnemonic by one space (R77), or the line's shape is otherwise off. -/
  | badLayout
deriving DecidableEq, Repr

end Sys2Proof
end

