-- ==== Sys2Proof/Decode.lean ====
section
/-! DEFINITION. The command encoding: the opcode map of 30_encoding.md rule R73, a total decoder that
rejects every other word by name (R74 to R76), and the encoder. -/

namespace Sys2Proof

/-- The opcode map of R73, row by row, in the order of spec/opcode_table.json. -/
def opcodeTable : List OpcodeRow := [
  ⟨"NOP",          0x0000#16, 0xFFFF#16, fun _ => .nop⟩,
  ⟨"CRC.INIT",     0x0100#16, 0xFFFF#16, fun _ => .crcInit⟩,
  ⟨"CRC.BYTE",     0x0200#16, 0xFF00#16, fun b => .crcByte b⟩,
  ⟨"FRAME.CLEAR",  0x1000#16, 0xFFFF#16, fun _ => .frameClear⟩,
  ⟨"FRAME.PUSH",   0x1100#16, 0xFF00#16, fun b => .framePush b⟩,
  ⟨"FRAME.DECODE", 0x1200#16, 0xFFFF#16, fun _ => .frameDecode⟩]

/-- A word selects a row when `(w & mask) == match` (R73). -/
def rowMatches (r : OpcodeRow) (w : Half) : Bool := w &&& r.mask == r.pattern

/-- The opcode of a row, which no other row has (R73). -/
def rowOpcode (r : OpcodeRow) : Byte := Machine.opField r.pattern

/-- The command a word encodes, or why it encodes none (R74 to R76). -/
def decode (w : Half) : Except IllegalWord Instr :=
  match opcodeTable.find? (rowMatches · w) with
  | some r => .ok (r.build (Machine.imm8Field w))
  | none =>
    if opcodeTable.any (rowOpcode · == Machine.opField w) then
      .error (.nonzeroImm8 (Machine.opField w) (Machine.imm8Field w))
    else
      .error (.reservedOpcode (Machine.opField w))

/-- A command word from its two fields (R71). -/
def mkWord (op imm8 : Byte) : Half := op ++ imm8

/-- The word of a command (R71, R73). -/
def encode : Instr → Half
  | .nop         => mkWord 0x00 0x00
  | .crcInit     => mkWord 0x01 0x00
  | .crcByte b   => mkWord 0x02 b
  | .frameClear  => mkWord 0x10 0x00
  | .framePush b => mkWord 0x11 b
  | .frameDecode => mkWord 0x12 0x00

/-- The command word whose bits a number gives, bits above `nbits` zero. Every command is one 16-bit
word (R70), so nothing above bit 15 belongs to it. -/
def tableWord (nbits w : Nat) : Half := BitVec.ofNat 16 (w % 2 ^ nbits)

/-- What the decoder reads from a word given as a number of `nbits` bits. -/
def decodeTableWord (nbits w : Nat) : Option Instr :=
  match decode (tableWord nbits w) with
  | .ok i => some i
  | .error _ => none

end Sys2Proof
end

