-- ==== Sys2Proof/Config.lean ====
section
/-! DEFINITION. The implementation parameters of 00_scope.md section 5 and 20_memory.md rule R60. -/

namespace Sys2Proof.Config

/-- `FRAME_LEN` (R3). -/
abbrev frameLen : Nat := 153

/-- `FB_CAP` (R12): how many bytes the frame buffer holds. -/
abbrev fbCap : Nat := 153

/-- `HDR0` (R4). -/
abbrev hdr0 : Byte := 0xAA#8

/-- `HDR1` (R4). -/
abbrev hdr1 : Byte := 0x55#8

/-- `PAYLOAD_LEN` (R5). -/
abbrev payloadLen : Nat := 149

/-- `PAYLOAD_START` (R5): the frame index of payload byte 0. -/
abbrev payloadStart : Nat := 2

/-- `CRC_POS` (R5): the frame index of the low CRC byte. -/
abbrev crcPos : Nat := 151

/-- `CRC_POLY` (R6). -/
abbrev crcPoly : Half := 0xA001#16

/-- `CRC_INIT` (R6). -/
abbrev crcInit : Half := 0xFFFF#16

/-- `SENTINEL` (R7). -/
abbrev sentinel : Half := 0xFFFF#16

/-- `YEAR_BASE` (R9). -/
abbrev yearBase : Half := 2000#16

/-- The default `OFFSET_BIAS` (R10). `Fin 51` is the range 0 to 50 that R10 gives the parameter;
its value in a run stands in State (log 4). -/
abbrev offsetBiasDefault : Fin 51 := 0

/-- `REQUEST_FRAME` (R14): a constant of the surrounding system, which the block never sends. -/
abbrev requestFrame : List Byte := [0x7F, 0x03, 0x75, 0x94, 0x00, 0x49, 0xD5, 0xC2]

/-- `GWFD_BASE` (R60): where the block sits in the host's address map, left to the platform.
No rule reads it and no definition of the model does; it has no value here (log 7). -/
opaque gwfdBase : Nat

end Sys2Proof.Config
end

