-- ==== Sys2Proof/Machine/State.lean ====
section
/-! DEFINITION. The state of GWFD (10_state.md), its value after reset (R38), and the reasons a step
could stop, of which the spec gives none. -/

namespace Sys2Proof.Machine

/-- The frame buffer `FB` (R24, 20_memory.md R51) as a list of index and byte in canonical form: see
`Memory.wf`. -/
abbrev Memory := List Host.Cell

/-- The registers of one string channel (R30, R33). -/
structure StringRegs where
  /-- `PRESENT_S[k]`. -/
  present : Bool
  /-- `S_V[k]`, raw voltage. -/
  v : Half
  /-- `S_I[k]`, raw current. -/
  i : Half
  /-- `S_P[k]`, raw power. -/
  p : Word
deriving DecidableEq, Repr

/-- The registers of one phase channel (R30, R34). -/
structure PhaseRegs where
  /-- `PRESENT_P[j]`. -/
  present : Bool
  /-- `P_V[j]`, raw voltage. -/
  v : Half
  /-- `P_I[j]`, raw current. -/
  i : Half
  /-- `P_F[j]`, raw frequency. -/
  f : Half
  /-- `P_P[j]`, raw power. -/
  p : Word
deriving DecidableEq, Repr

/-- The reading registers (R31): the registers that hold one DecodedReading. -/
structure Reading where
  /-- `TS_YY` (R32). -/
  tsYY : Byte
  /-- `TS_MON` (R32). -/
  tsMon : Byte
  /-- `TS_DAY` (R32). -/
  tsDay : Byte
  /-- `TS_HOUR` (R32). -/
  tsHour : Byte
  /-- `TS_MIN` (R32). -/
  tsMin : Byte
  /-- `TS_SEC` (R32). -/
  tsSec : Byte
  /-- `TS_YEAR` (R32). -/
  tsYear : Half
  /-- string_1: `PRESENT_S[0]`, `S_V[0]`, `S_I[0]`, `S_P[0]`. -/
  string1 : StringRegs
  /-- string_2: index 1. -/
  string2 : StringRegs
  /-- string_3: index 2. -/
  string3 : StringRegs
  /-- string_4: index 3. -/
  string4 : StringRegs
  /-- phase_1: `PRESENT_P[0]`, `P_V[0]`, `P_I[0]`, `P_F[0]`, `P_P[0]`. -/
  phase1 : PhaseRegs
  /-- phase_2: index 1. -/
  phase2 : PhaseRegs
  /-- phase_3: index 2. -/
  phase3 : PhaseRegs
  /-- `GRID_P` (R35). -/
  gridP : Half
  /-- `TEMP` (R35). -/
  temp : Half
  /-- `E_DAY` (R35). -/
  eDay : Half
  /-- `E_TOTAL` (R35). -/
  eTotal : Word
  /-- `H_TOTAL` (R35). -/
  hTotal : Half
deriving DecidableEq, Repr

/-- A string channel whose registers are all 0. -/
def StringRegs.zero : StringRegs := ⟨false, 0, 0, 0⟩

/-- A phase channel whose registers are all 0. -/
def PhaseRegs.zero : PhaseRegs := ⟨false, 0, 0, 0, 0⟩

/-- Every reading register 0 (R38, 42_frame.md R120, R136). -/
def Reading.zero : Reading where
  tsYY := 0
  tsMon := 0
  tsDay := 0
  tsHour := 0
  tsMin := 0
  tsSec := 0
  tsYear := 0
  string1 := StringRegs.zero
  string2 := StringRegs.zero
  string3 := StringRegs.zero
  string4 := StringRegs.zero
  phase1 := PhaseRegs.zero
  phase2 := PhaseRegs.zero
  phase3 := PhaseRegs.zero
  gridP := 0
  temp := 0
  eDay := 0
  eTotal := 0
  hTotal := 0

/-- The complete architectural state (R22), and after it three fields that are the model's own: R22 says
that the parameter, the command stream and the read address are not state of the block. -/
structure State where
  /-- `CRC` (R23). -/
  crc : Half
  /-- `FB[0..152]` (R24). -/
  fb : Memory
  /-- `FLEN` (R25). -/
  flen : Half
  /-- `RESULT` (R26). -/
  result : BitVec 3
  /-- `ILLEGAL` (R27). -/
  illegal : Bool
  /-- `CRC_EXP` (R28). -/
  crcExp : Half
  /-- `CRC_RCV` (R29). -/
  crcRcv : Half
  /-- The reading registers (R31). -/
  reading : Reading
  /-- Model's own: the parameter `OFFSET_BIAS` (00_scope.md R10), which no step changes (log 4). -/
  offsetBias : Fin 51
  /-- Model's own: what the host has issued and the block has not yet taken, oldest first (log 1). -/
  inputs : List Interaction
  /-- Model's own: the words the host's reads got back, newest first (log 5). -/
  replies : List Word
deriving DecidableEq, Repr

/-- Why a step could stop with a fault: nothing in the spec does. 20_memory.md R61 says that no access
can fault, 40_control.md R90 that no command can be stuck or fail to finish, and 60_exceptions.md R207
that an error does not trap. The type has no constructor, so the type itself says that no step faults
(log 6). -/
inductive Fault
deriving DecidableEq, Repr

/-- Why a step could refuse an instruction. -/
inductive Refusal where
  /-- An instruction without a meaning. No arm of `exec` raises it: all six commands have theirs.
  Safe: the run would stop. -/
  | notModelled (mnemonic : String)
deriving DecidableEq, Repr

/-- The machine right after reset (R38, 70_reset_and_hazards.md R220), with the parameter at its default
(R10) and nothing issued. `FB` is unspecified after reset (R222); here nothing is listed (log 3). -/
def State.reset : State where
  crc := 0xFFFF
  fb := []
  flen := 0
  result := 0
  illegal := false
  crcExp := 0
  crcRcv := 0
  reading := Reading.zero
  offsetBias := Config.offsetBiasDefault
  inputs := []
  replies := []

end Sys2Proof.Machine
end

