-- ==== Sys2Proof/Machine/Control.lean ====
section
/-! DEFINITION. NOP (40_control.md rule R91). -/

namespace Sys2Proof.Machine

/-- NOP: `skip`, no state is read or written (R91). -/
def execNop (s : State) : Host.Outcome State Fault Refusal := .next s

end Sys2Proof.Machine
end

