-- ==== Sys2Proof/Machine/Ops.lean ====
section
/-! DEFINITION. The named operations over the frame buffer and the registers (00_scope.md rule R16):
reading and writing `FB`, the payload and its fields (43_fields.md rules R150 to R154), the two error
commits (42_frame.md R136, 60_exceptions.md R205), and the host's side of the machine. -/

namespace Sys2Proof.Machine

/-- What an index of the frame buffer that is not listed reads as. R222 leaves the contents after reset
unspecified and unobservable; DESIGN CHOICE, log 3. -/
def unlistedByte : Byte := 0

/-- `FB[i]` (R16). -/
def Memory.read : Memory → Nat → Byte
  | [], _ => unlistedByte
  | (j, b) :: m, i => if i = j then b else Memory.read m i

/-- `MemWrite(i, 1, b)` (R16): one byte, keeping the indices rising and listing no byte that an
unlisted index reads as. -/
def Memory.write : Memory → Nat → Byte → Memory
  | [], i, b => if b = unlistedByte then [] else [(i, b)]
  | (j, c) :: m, i, b =>
    if i < j then (if b = unlistedByte then (j, c) :: m else (i, b) :: (j, c) :: m)
    else if i = j then (if b = unlistedByte then m else (i, b) :: m)
    else (j, c) :: Memory.write m i b

/-- Every index of the list lies above `lo` where there is one, below `FB_CAP`, and they rise strictly;
no byte is the one an unlisted index reads as. -/
def Memory.wfAbove : Option Nat → Memory → Bool
  | _, [] => true
  | lo, (j, b) :: m =>
    (match lo with | none => true | some l => decide (l < j)) && decide (j < Config.fbCap) &&
      decide (b ≠ unlistedByte) && Memory.wfAbove (some j) m

/-- The canonical form: equal contents are equal lists. -/
def Memory.wf (m : Memory) : Bool := Memory.wfAbove none m

/-- `MemRead(i, n)` (R16): n bytes in increasing index order. -/
def Memory.readList (m : Memory) (i : Nat) : Nat → List Byte
  | 0 => []
  | n + 1 => m.read i :: m.readList (i + 1) n

/-- `P[o]` (R16, R52). -/
def payloadByte (m : Memory) (o : Nat) : Byte := m.read (Config.payloadStart + o)

/-- The payload, P[0] to P[148] (R5, R133). -/
def payloadOf (m : Memory) : List Byte := m.readList Config.payloadStart Config.payloadLen

/-- `be16(i)` (R150). -/
def be16 (m : Memory) (i : Nat) : Half := join16 (payloadByte m i) (payloadByte m (i + 1))

/-- `be32(i)` (R151). -/
def be32 (m : Memory) (i : Nat) : Word :=
  join32 (payloadByte m i) (payloadByte m (i + 1)) (payloadByte m (i + 2)) (payloadByte m (i + 3))

/-- `F8(o)` (R154). -/
def field8 (m : Memory) (bias : Fin 51) (o : Nat) : Byte := payloadByte m (o + bias.val)

/-- `F16(o)` (R154). -/
def field16 (m : Memory) (bias : Fin 51) (o : Nat) : Half := be16 m (o + bias.val)

/-- `F32(o)` (R154). -/
def field32 (m : Memory) (bias : Fin 51) (o : Nat) : Word := be32 m (o + bias.val)

/-- The received CRC of the trailer (R54, R133). -/
def receivedCrc (m : Memory) : Half := le16 (m.read Config.crcPos) (m.read (Config.crcPos + 1))

/-- The header check passes (R132). -/
def headerOk (m : Memory) : Bool := m.read 0 == Config.hdr0 && m.read 1 == Config.hdr1

/-- The error codes of `RESULT` (R26), and its other values. -/
def resultNone : BitVec 3 := 0
/-- OK (R26). -/
def resultOk : BitVec 3 := 1
/-- ERR_LENGTH (R26). -/
def errLength : BitVec 3 := 2
/-- ERR_HEADER (R26). -/
def errHeader : BitVec 3 := 3
/-- ERR_INTEGRITY (R26). -/
def errIntegrity : BitVec 3 := 4

/-- `raise DecodeError(code)`: the failure commit of R136 (R18). The machine's one way to take an error of
FRAME.DECODE: it saves nothing else, masks nothing and goes nowhere (60_exceptions.md R207), and there is
no return from it (R209). -/
def State.raiseDecodeError (s : State) (code : BitVec 3) : State :=
  { s with
    result := code
    reading := Reading.zero
    crcExp := if code = errLength ∨ code = errHeader then 0 else s.crcExp
    crcRcv := if code = errLength ∨ code = errHeader then 0 else s.crcRcv }

/-- `raise IllegalCommand`: the effect of an illegal word (R18, R205). -/
def State.raiseIllegalCommand (s : State) : State := { s with illegal := true }

/-- The two CRCs that the integrity check compares, kept as diagnostics (R133). -/
def State.setDiagnostics (s : State) (exp rcv : Half) : State := { s with crcExp := exp, crcRcv := rcv }

/-- The success commit (R135). -/
def State.commitReading (s : State) (rd : Reading) : State :=
  { s with result := resultOk, reading := rd }

/-- Write the CRC accumulator (R23). -/
def State.setCrc (s : State) (c : Half) : State := { s with crc := c }

/-- What FRAME.CLEAR clears (R120). -/
def State.clearFrame (s : State) : State :=
  { s with flen := 0, result := resultNone, crcExp := 0, crcRcv := 0, reading := Reading.zero }

/-- The two assignments of FRAME.PUSH, both tests on `FLEN` before the command (R124, R12, R25). -/
def State.pushByte (s : State) (b : Byte) : State :=
  { s with
    fb := if s.flen.toNat < Config.fbCap then s.fb.write s.flen.toNat b else s.fb
    flen := if s.flen.toNat < 0xFFFF then s.flen + 1 else s.flen }

/-- Reset (R220): every state element takes its reset value. The parameter is fixed for the run (R230),
and what the host has issued or got back is the host's (log 1, log 5). `FB` is unspecified after it
(R222) and reads as after the first reset (log 3). -/
def State.hostReset (s : State) : State :=
  { State.reset with offsetBias := s.offsetBias, inputs := s.inputs, replies := s.replies }

/-- The host gets a word back from the read port (R66). -/
def State.reply (s : State) (v : Word) : State := { s with replies := v :: s.replies }

/-- The block has taken the host's next interaction; `rest` is still to come. -/
def State.takeInput (s : State) (rest : List Interaction) : State := { s with inputs := rest }

end Sys2Proof.Machine
end

