-- ==== Sys2Proof/Machine/Crc.lean ====
section
/-! DEFINITION. The CRC-16 reflected generator and its two commands (41_crc.md). -/

namespace Sys2Proof.Machine

/-- `crcRound(c)` (R100): the test is on bit 0 before the logical shift. -/
def crcRound (c : Half) : Half :=
  if c.getLsbD 0 then (c >>> 1) ^^^ Config.crcPoly else c >>> 1

/-- `n` rounds in a row. -/
def crcRounds : Nat → Half → Half
  | 0, t => t
  | n + 1, t => crcRounds n (crcRound t)

/-- `crcByte(c, b)` (R102): the byte into the low half, then exactly 8 rounds. -/
def crcByte (c : Half) (b : Byte) : Half := crcRounds 8 (c ^^^ b.setWidth 16)

/-- The accumulator after a sequence of bytes, index 0 first. -/
def crcFold (c : Half) (bs : List Byte) : Half := bs.foldl crcByte c

/-- `computeCrc16(s)` (R104): no final XOR. -/
def computeCrc16 (bs : List Byte) : Half := crcFold Config.crcInit bs

/-- CRC.INIT (R105). -/
def execCrcInit (s : State) : Host.Outcome State Fault Refusal :=
  .next (s.setCrc Config.crcInit)

/-- CRC.BYTE b (R106). -/
def execCrcByte (b : Byte) (s : State) : Host.Outcome State Fault Refusal :=
  .next (s.setCrc (crcByte s.crc b))

end Sys2Proof.Machine
end

