-- ==== Sys2Proof/Machine/Flags.lean ====
section
/-! DEFINITION. The flags (10_state.md rule R36): the sentinel comparator behind the present flags
(43_fields.md rules R160 to R162), and the STATUS and PRESENT words the host reads them through
(10_state.md rules R42, R43). -/

namespace Sys2Proof.Machine

/-- `isSentinel(v)` (R160): all 16 bits of the raw voltage, before any division. -/
def isSentinel (v : Half) : Bool := v == Config.sentinel

/-- A flag as bit `n` of a read word. -/
def flagBit (n : Nat) (f : Bool) : Word := (BitVec.ofBool f).setWidth 32 <<< n

/-- STATUS: `RESULT | (ILLEGAL << 3)` (R42). -/
def statusWord (s : State) : Word := s.result.setWidth 32 ||| flagBit 3 s.illegal

/-- PRESENT: strings in bits 0 to 3, phases in bits 4 to 6 (R43). -/
def presentWord (r : Reading) : Word :=
  flagBit 0 r.string1.present ||| flagBit 1 r.string2.present |||
  flagBit 2 r.string3.present ||| flagBit 3 r.string4.present |||
  flagBit 4 r.phase1.present ||| flagBit 5 r.phase2.present ||| flagBit 6 r.phase3.present

end Sys2Proof.Machine
end

