-- ==== Sys2Proof/Machine/Fields.lean ====
section
/-! DEFINITION. The fixed-point scaler, the timestamp, the channels with their derived power, and
`decodeFields` (43_fields.md rules R155 to R187). -/

namespace Sys2Proof.Machine

/-- `scaleQ(r, d)` (R155). -/
def scaleQ (r d : Nat) : Nat := r / d

/-- `scaleR(r, d)` (R155). -/
def scaleR (r d : Nat) : Nat := r % d

/-- The raw power `V * I`, exact in 32 bits for a present channel (R175). -/
def rawPower (v i : Half) : Word := v.setWidth 32 * i.setWidth 32

/-- The power register: 0 for an absent channel (R176, R178). -/
def channelPower (v i : Half) : Word := if isSentinel v then 0 else rawPower v i

/-- `TS_YEAR` from the year byte: arithmetic (R170, 90_conflicts.md C1). -/
def yearOf (yy : Byte) : Half := Config.yearBase + yy.setWidth 16

/-- String channel k + 1 (R176). -/
def stringChannel (m : Memory) (bias : Fin 51) (k : Nat) : StringRegs where
  present := !isSentinel (field16 m bias (7 + 4 * k))
  v := field16 m bias (7 + 4 * k)
  i := field16 m bias (9 + 4 * k)
  p := channelPower (field16 m bias (7 + 4 * k)) (field16 m bias (9 + 4 * k))

/-- Phase channel j + 1 (R178). -/
def phaseChannel (m : Memory) (bias : Fin 51) (j : Nat) : PhaseRegs where
  present := !isSentinel (field16 m bias (37 + 2 * j))
  v := field16 m bias (37 + 2 * j)
  i := field16 m bias (43 + 2 * j)
  f := field16 m bias (49 + 2 * j)
  p := channelPower (field16 m bias (37 + 2 * j)) (field16 m bias (43 + 2 * j))

/-- `decodeFields(P)` (R187; timestamp R172, scalars R180 to R184). It cannot fail (R134), and no byte
of the timestamp is range-checked (R171). -/
def decodeFields (m : Memory) (bias : Fin 51) : Reading where
  tsYY := field8 m bias 1
  tsMon := field8 m bias 2
  tsDay := field8 m bias 3
  tsHour := field8 m bias 4
  tsMin := field8 m bias 5
  tsSec := field8 m bias 6
  tsYear := yearOf (field8 m bias 1)
  string1 := stringChannel m bias 0
  string2 := stringChannel m bias 1
  string3 := stringChannel m bias 2
  string4 := stringChannel m bias 3
  phase1 := phaseChannel m bias 0
  phase2 := phaseChannel m bias 1
  phase3 := phaseChannel m bias 2
  gridP := field16 m bias 57
  temp := field16 m bias 83
  eDay := field16 m bias 89
  eTotal := field32 m bias 91
  hTotal := field16 m bias 97

end Sys2Proof.Machine
end

