-- ==== Sys2Proof/Machine/Frame.lean ====
section
/-! DEFINITION. The frame decoder's three commands (42_frame.md). -/

namespace Sys2Proof.Machine

/-- FRAME.CLEAR (R120). -/
def execFrameClear (s : State) : Host.Outcome State Fault Refusal := .next s.clearFrame

/-- FRAME.PUSH b (R124). -/
def execFramePush (b : Byte) (s : State) : Host.Outcome State Fault Refusal := .next (s.pushByte b)

/-- Steps 1 to 9 (R127), given the CRC of the payload and the CRC of the trailer: length, then header, then
integrity, then the fields (R131 to R135, 60_exceptions.md R206). The two CRCs count only for a frame whose
length and header are right. -/
def State.decodeWith (s : State) (exp rcv : Half) : State :=
  if s.flen.toNat ≠ Config.frameLen then s.raiseDecodeError errLength
  else if !headerOk s.fb then s.raiseDecodeError errHeader
  else if exp ≠ rcv then (s.setDiagnostics exp rcv).raiseDecodeError errIntegrity
  else (s.setDiagnostics exp rcv).commitReading (decodeFields s.fb s.offsetBias)

/-- FRAME.DECODE (R127); the payload CRC is computed apart from `CRC` (R128, R133). -/
def execFrameDecode (s : State) : Host.Outcome State Fault Refusal :=
  .next (s.decodeWith (computeCrc16 (payloadOf s.fb)) (receivedCrc s.fb))

end Sys2Proof.Machine
end

