-- ==== Sys2Proof/Machine/Dispatch.lean ====
section
/-! DEFINITION. The case list of 40_control.md rule R90: one arm per command. -/

namespace Sys2Proof.Machine

def exec (i : Instr) (s : State) : Host.Outcome State Fault Refusal :=
  match i with
  | .nop => Sys2Proof.Machine.execNop s
  | .crcInit => Sys2Proof.Machine.execCrcInit s
  | .crcByte b => Sys2Proof.Machine.execCrcByte b s
  | .frameClear => Sys2Proof.Machine.execFrameClear s
  | .framePush b => Sys2Proof.Machine.execFramePush b s
  | .frameDecode => Sys2Proof.Machine.execFrameDecode s

end Sys2Proof.Machine
end

