-- ==== Sys2Proof/Machine/ReadPort.lean ====
section
/-! DEFINITION. The read port and its register map (10_state.md rules R40 to R46), and what a run's end
shows (70_reset_and_hazards.md rule R230). -/

namespace Sys2Proof.Machine

/-- `Raw(a)`: the content column of R41, zero-extended (R17), 0 at a reserved address. -/
def rawReg (s : State) (a : Byte) : Word :=
  match a with
  | 0x00#8 => statusWord s
  | 0x01#8 => s.crc.setWidth 32
  | 0x02#8 => s.flen.setWidth 32
  | 0x03#8 => s.crcExp.setWidth 32
  | 0x04#8 => s.crcRcv.setWidth 32
  | 0x05#8 => presentWord s.reading
  | 0x06#8 => s.reading.tsYear.setWidth 32
  | 0x07#8 => s.reading.tsYY.setWidth 32
  | 0x08#8 => s.reading.tsMon.setWidth 32
  | 0x09#8 => s.reading.tsDay.setWidth 32
  | 0x0A#8 => s.reading.tsHour.setWidth 32
  | 0x0B#8 => s.reading.tsMin.setWidth 32
  | 0x0C#8 => s.reading.tsSec.setWidth 32
  | 0x10#8 => s.reading.string1.v.setWidth 32
  | 0x11#8 => s.reading.string1.i.setWidth 32
  | 0x12#8 => s.reading.string1.p
  | 0x14#8 => s.reading.string2.v.setWidth 32
  | 0x15#8 => s.reading.string2.i.setWidth 32
  | 0x16#8 => s.reading.string2.p
  | 0x18#8 => s.reading.string3.v.setWidth 32
  | 0x19#8 => s.reading.string3.i.setWidth 32
  | 0x1A#8 => s.reading.string3.p
  | 0x1C#8 => s.reading.string4.v.setWidth 32
  | 0x1D#8 => s.reading.string4.i.setWidth 32
  | 0x1E#8 => s.reading.string4.p
  | 0x20#8 => s.reading.phase1.v.setWidth 32
  | 0x21#8 => s.reading.phase1.i.setWidth 32
  | 0x22#8 => s.reading.phase1.f.setWidth 32
  | 0x23#8 => s.reading.phase1.p
  | 0x24#8 => s.reading.phase2.v.setWidth 32
  | 0x25#8 => s.reading.phase2.i.setWidth 32
  | 0x26#8 => s.reading.phase2.f.setWidth 32
  | 0x27#8 => s.reading.phase2.p
  | 0x28#8 => s.reading.phase3.v.setWidth 32
  | 0x29#8 => s.reading.phase3.i.setWidth 32
  | 0x2A#8 => s.reading.phase3.f.setWidth 32
  | 0x2B#8 => s.reading.phase3.p
  | 0x30#8 => s.reading.gridP.setWidth 32
  | 0x31#8 => s.reading.temp.setWidth 32
  | 0x32#8 => s.reading.eDay.setWidth 32
  | 0x33#8 => s.reading.eTotal
  | 0x34#8 => s.reading.hTotal.setWidth 32
  | _ => 0

/-- The addresses whose divisor is 10 (R45). -/
def divTenAddrs : List Byte :=
  [0x10, 0x11, 0x14, 0x15, 0x18, 0x19, 0x1C, 0x1D, 0x20, 0x21, 0x24, 0x25, 0x28, 0x29, 0x31, 0x32, 0x33]

/-- The addresses whose divisor is 100 (R45). -/
def divHundredAddrs : List Byte :=
  [0x12, 0x16, 0x1A, 0x1E, 0x22, 0x23, 0x26, 0x27, 0x2A, 0x2B]

/-- `DIV(a)` (R45). -/
def divisor (a : Byte) : Nat :=
  if divTenAddrs.contains a then 10 else if divHundredAddrs.contains a then 100 else 1

/-- `Read(a)` (R44). -/
def State.readPort (s : State) (a : Byte) : Word :=
  if a < 0x40#8 then rawReg s a
  else if a < 0x80#8 then
    BitVec.ofNat 32 (scaleQ (rawReg s (a - 0x40#8)).toNat (divisor (a - 0x40#8)))
  else if a < 0xC0#8 then
    BitVec.ofNat 32 (scaleR (rawReg s (a - 0x80#8)).toNat (divisor (a - 0x80#8)))
  else 0

/-- A host read: the word goes back to the host and the block is unchanged (R57, R66). -/
def State.hostRead (s : State) (a : Byte) : State := s.reply (s.readPort a)

/-- The read image: `Read(a)` for every a, in address order (R230). -/
def State.readImage (s : State) : List Word := (List.range 256).map fun a => s.readPort (BitVec.ofNat 8 a)

/-- The pushed bytes `FB[0..FLEN-1]` when `FLEN <= 153` (R230). -/
def State.pushedBytes (s : State) : Option (List Byte) :=
  if s.flen.toNat ≤ Config.frameLen then some (s.fb.readList 0 s.flen.toNat) else none

/-- The observation of a run whose final state is `s` (R230). -/
def State.observe (s : State) : List Word × Option (List Byte) := (s.readImage, s.pushedBytes)

end Sys2Proof.Machine
end

