-- ==== Sys2Proof/Machine/Port.lean ====
section
/-! DEFINITION. The host interface (20_memory.md rule R66): what one interaction does, and what a sequence
of them does in host order (R62). -/

namespace Sys2Proof.Machine

/-- `Step(w)` of 40_control.md R90: an illegal word is recognised before anything else (R206). -/
def issue (w : Half) (s : State) : Host.Outcome State Fault Refusal :=
  match decode w with
  | .ok i => exec i s
  | .error _ => .next s.raiseIllegalCommand

/-- One interaction of the host, as one atomic step (R59, R66). -/
def perform (x : Interaction) (s : State) : Host.Outcome State Fault Refusal :=
  match x with
  | .command w => issue w s
  | .read a => .next (s.hostRead a)
  | .reset => .next s.hostReset

/-- A sequence of interactions in host order (R62). -/
def performAll : List Interaction → State → Host.Outcome State Fault Refusal
  | [], s => .next s
  | x :: xs, s =>
    match perform x s with
    | .next t => performAll xs t
    | .fault f => .fault f
    | .refused r => .refused r

/-- One step: the block takes the host's next interaction and performs it. With nothing issued it holds its
state (60_exceptions.md R216; log 2). -/
def stepInput (s : State) : Host.Outcome State Fault Refusal :=
  match s.inputs with
  | [] => .next s
  | x :: rest => perform x (s.takeInput rest)

/-- The host has issued the word `w` as its next interaction. -/
def State.issueNext (s : State) (w : Half) : State := { s with inputs := .command w :: s.inputs }

end Sys2Proof.Machine
end

