-- ==== Sys2Proof/Machine/Step.lean ====
section
/-! DEFINITION. One step of the machine, and how an instruction comes to be the next one it runs. -/

namespace Sys2Proof.Machine

/-- One step (R90, R66). -/
def step (s : State) : Host.Outcome State Fault Refusal := stepInput s

/-- The block fetches no instruction (R21): the host issues it. The word comes before whatever else the
host has issued, so the next step runs it (log 1). -/
def State.withFetchWord (s : State) (nbits w : Nat) : State := s.issueNext (tableWord nbits w)

end Sys2Proof.Machine
end

