-- ==== Sys2Proof/WellFormed.lean ====
section
/-! DEFINITION. Which command words and which program lines are well formed.

A term of `Instr` needs no check of its own: its one operand is a `Byte`, which is all that R72 asks.
The spec's checks are on what the host can write wrong: a 16-bit word (30_encoding.md rule R74) and a
line of assembler text (R78 to R83). -/

namespace Sys2Proof

/-- `legal(w)` as R74 writes it out. -/
def legal (w : Half) : Bool :=
  (Machine.opField w == 0x02#8 || Machine.opField w == 0x11#8) ||
  ((Machine.opField w == 0x00#8 || Machine.opField w == 0x01#8 || Machine.opField w == 0x10#8 ||
      Machine.opField w == 0x12#8) && Machine.imm8Field w == 0x00#8)

/-- How many operands a line of this name takes: `some n` is exactly n (R78), `none` is any number
(R79 to R81). -/
def Mnemonic.arity : Mnemonic → Option Nat
  | .nop | .crcInit | .frameClear | .frameDecode => some 0
  | .crcByte | .framePush | .rd | .dotWord => some 1
  | .crcSeq | .frameLoad | .framePoll => none

/-- The largest value an operand of this name may have (R78; R83 for the raw word). -/
def Mnemonic.operandMax : Mnemonic → Nat
  | .dotWord => 0xFFFF
  | _ => 0xFF

/-- No operand is missing and none is extra (R78). -/
def SourceLine.countOk (l : SourceLine) : Bool :=
  match l.name.arity with
  | some n => l.operands.length == n
  | none => true

/-- Every operand lies in its range (R78, R83). -/
def SourceLine.rangeOk (l : SourceLine) : Bool :=
  l.operands.all (· ≤ l.name.operandMax)

/-- Only a host read names a returned word, and that word has 32 bits (R82). -/
def SourceLine.expectedOk (l : SourceLine) : Bool :=
  match l.expected with
  | none => true
  | some v => l.name == .rd && v < 2 ^ 32

/-- A line the assembler accepts. -/
def SourceLine.wellFormed (l : SourceLine) : Bool :=
  l.countOk && l.rangeOk && l.expectedOk

end Sys2Proof
end

