-- ==== Sys2Proof/Machine/Assembler.lean ====
section
/-! DEFINITION. The assembler (30_encoding.md rules R77 to R83): a line of text to a program line, and a
program line to the host interactions it stands for. Details of spacing and spelling that the rules do not
fix are DESIGN CHOICE, log 8. -/

namespace Sys2Proof.Machine

/-- The commands a program line stands for, where it stands for commands (R79 to R81). `none` for the host
read and the raw word. The operands are read as bytes; `SourceLine.wellFormed` says that they are. -/
def expandCommands (name : Mnemonic) (bs : List Byte) : Option (List Instr) :=
  match name with
  | .nop => some [.nop]
  | .crcInit => some [.crcInit]
  | .crcByte => some (bs.map .crcByte)
  | .frameClear => some [.frameClear]
  | .framePush => some (bs.map .framePush)
  | .frameDecode => some [.frameDecode]
  | .crcSeq => some (.crcInit :: bs.map .crcByte)
  | .frameLoad => some (.frameClear :: bs.map .framePush)
  | .framePoll => some (.frameClear :: bs.map .framePush ++ [.frameDecode])
  | .rd => none
  | .dotWord => none

/-- The interactions that issue a list of commands. -/
def issueCommands (is : List Instr) : List Interaction := is.map fun i => .command (encode i)

/-- The interactions of a program line, taken as well formed (R79 to R83). -/
def lineInteractions (l : SourceLine) : List Interaction :=
  match expandCommands l.name (l.operands.map (BitVec.ofNat 8)) with
  | some is => issueCommands is
  | none =>
    match l.name with
    | .dotWord => l.operands.map fun w => .command (BitVec.ofNat 16 w)
    | _ => l.operands.map fun a => .read (BitVec.ofNat 8 a)

/-- A line assembles, or is an error and encodes nothing (R78). -/
def assembleLine (l : SourceLine) : Except AsmError (List Interaction) :=
  if l.wellFormed then .ok (lineInteractions l) else .error .illFormed

/-- How each name is written (R73, R79 to R83). -/
def mnemonicText : List (String × Mnemonic) := [
  ("NOP", .nop), ("CRC.INIT", .crcInit), ("CRC.BYTE", .crcByte), ("FRAME.CLEAR", .frameClear),
  ("FRAME.PUSH", .framePush), ("FRAME.DECODE", .frameDecode), ("CRC.SEQ", .crcSeq),
  ("FRAME.LOAD", .frameLoad), ("FRAME.POLL", .framePoll), ("RD", .rd), (".WORD", .dotWord)]

/-- A name, in any case (R77). -/
def parseMnemonic (cs : List Char) : Option Mnemonic :=
  (mnemonicText.find? fun p => p.1.toList == cs.map Char.toUpper).map (·.2)

/-- The value of one digit character in hexadecimal. -/
def hexDigit (c : Char) : Option Nat :=
  if '0' ≤ c ∧ c ≤ '9' then some (c.toNat - '0'.toNat)
  else if 'a' ≤ c ∧ c ≤ 'f' then some (c.toNat - 'a'.toNat + 10)
  else if 'A' ≤ c ∧ c ≤ 'F' then some (c.toNat - 'A'.toNat + 10)
  else none

/-- Digits in a base, most significant first; `none` at a character that is no digit of the base. -/
def parseDigits (base : Nat) : Nat → List Char → Option Nat
  | acc, [] => some acc
  | acc, c :: cs =>
    match hexDigit c with
    | some d => if d < base then parseDigits base (acc * base + d) cs else none
    | none => none

/-- A number as R78 writes it: `0x` and hexadecimal digits, or decimal digits. -/
def parseNumber : List Char → Except AsmError Nat
  | '0' :: 'x' :: d :: ds => (parseDigits 16 0 (d :: ds)).elim (.error .badNumber) .ok
  | d :: ds => (parseDigits 10 0 (d :: ds)).elim (.error .badNumber) .ok
  | [] => .error .badNumber

/-- Spaces off both ends. -/
def trim (cs : List Char) : List Char :=
  ((cs.dropWhile (· == ' ')).reverse.dropWhile (· == ' ')).reverse

/-- The pieces of a text between commas. -/
def splitCommas : List Char → List (List Char)
  | [] => [[]]
  | ',' :: cs => [] :: splitCommas cs
  | c :: cs =>
    match splitCommas cs with
    | p :: ps => (c :: p) :: ps
    | [] => [[c]]

/-- The text before `->` and, where there is one, the text after it (R82). -/
def splitArrow : List Char → List Char × Option (List Char)
  | [] => ([], none)
  | '-' :: '>' :: cs => ([], some cs)
  | c :: cs => (c :: (splitArrow cs).1, (splitArrow cs).2)

/-- Every number of a list of texts, or the first error. -/
def parseNumbers : List (List Char) → Except AsmError (List Nat)
  | [] => .ok []
  | t :: ts =>
    match parseNumber (trim t), parseNumbers ts with
    | .ok n, .ok ns => .ok (n :: ns)
    | .error e, _ => .error e
    | _, .error e => .error e

/-- The operands after a name: none, or numbers between commas. -/
def parseOperands (cs : List Char) : Except AsmError (List Nat) :=
  if trim cs = [] then .ok [] else parseNumbers (splitCommas cs)

/-- What stands after the name and its one space. -/
def parseTail (name : Mnemonic) (cs : List Char) : Except AsmError SourceLine :=
  match parseOperands (splitArrow cs).1, (splitArrow cs).2 with
  | .error e, _ => .error e
  | .ok ns, none => .ok ⟨name, ns, none⟩
  | .ok ns, some v =>
    match parseNumber (trim v) with
    | .ok n => .ok ⟨name, ns, some n⟩
    | .error e => .error e

/-- One line of text (R77): `none` for a line that holds nothing but a comment. -/
def parseLine (text : List Char) : Except AsmError (Option SourceLine) :=
  let body := ((text.takeWhile (· != ';')).reverse.dropWhile (· == ' ')).reverse
  if body = [] then .ok none
  else
    match parseMnemonic (body.takeWhile (· != ' ')), body.dropWhile (· != ' ') with
    | none, _ => .error .unknownMnemonic
    | some _, ' ' :: ' ' :: _ => .error .badLayout
    | some name, rest => (parseTail name (rest.drop 1)).map some

/-- One line of text to the interactions it stands for. -/
def assembleText (text : List Char) : Except AsmError (List Interaction) :=
  match parseLine text with
  | .ok (some l) => assembleLine l
  | .ok none => .ok []
  | .error e => .error e

/-- A program, one command per line (R77): the first error, or all the interactions in order. -/
def assembleProgram : List (List Char) → Except AsmError (List Interaction)
  | [] => .ok []
  | l :: ls =>
    match assembleText l, assembleProgram ls with
    | .ok xs, .ok ys => .ok (xs ++ ys)
    | .error e, _ => .error e
    | _, .error e => .error e

/-- One hexadecimal digit, as the listings of R77 write it. -/
def hexChar (n : Nat) : Char := Nat.digitChar n |>.toUpper

/-- A command word as 4 hexadecimal digits (R77). -/
def hexWord (w : Half) : List Char :=
  [hexChar (w.extractLsb' 12 4).toNat, hexChar (w.extractLsb' 8 4).toNat,
   hexChar (w.extractLsb' 4 4).toNat, hexChar (w.extractLsb' 0 4).toNat]

end Sys2Proof.Machine
end

