-- ==== Sys2Proof/Machine/OutputView.lean ====
section
/-! DEFINITION. The consumer's side of a reading: the exact scaled values (43_fields.md rules R155, R157) and
the output view (R185). The block itself outputs registers only (00_scope.md section 3). -/

namespace Sys2Proof.Machine

/-- A raw value with its divisor (R155). -/
structure Scaled where
  raw : Nat
  divisor : Nat
deriving DecidableEq, Repr

/-- The exact scaled value (R155). -/
def Scaled.value (x : Scaled) : ℚ := (x.raw : ℚ) / (x.divisor : ℚ)

/-- `text` with zeros before it up to `k` characters. -/
def padZeros (k : Nat) (text : List Char) : List Char := List.replicate (k - text.length) '0' ++ text

/-- The decimal digits of a number. -/
def decimalDigits (n : Nat) : List Char := Nat.toDigits 10 n

/-- How many decimals a divisor gives: the k of `d = 10^k` (R157). -/
def decimals (d : Nat) : Nat := if d = 100 then 2 else if d = 10 then 1 else 0

/-- The exact decimal form (R157). -/
def Scaled.decimal (x : Scaled) : List Char :=
  decimalDigits (scaleQ x.raw x.divisor) ++
    (if decimals x.divisor = 0 then []
     else '.' :: padZeros (decimals x.divisor) (decimalDigits (scaleR x.raw x.divisor)))

/-- `string_<k+1>` of the output (R185). -/
structure StringView where
  voltage : Scaled
  current : Scaled
  power : Scaled
deriving DecidableEq, Repr

/-- `phase_<j+1>` of the output (R185). -/
structure PhaseView where
  voltage : Scaled
  current : Scaled
  frequency : Scaled
  power : Scaled
deriving DecidableEq, Repr

/-- The DecodedReading under the source's names (R185). An absent channel has no entry. -/
structure OutputView where
  datetime : List Char
  string1 : Option StringView
  string2 : Option StringView
  string3 : Option StringView
  string4 : Option StringView
  phase1 : Option PhaseView
  phase2 : Option PhaseView
  phase3 : Option PhaseView
  powerToGrid : Scaled
  temperature : Scaled
  yieldToday : Scaled
  yieldTotal : Scaled
  workingHours : Scaled
deriving DecidableEq, Repr

/-- The entry of a string channel (R185). -/
def stringView (c : StringRegs) : Option StringView :=
  if c.present then some ⟨⟨c.v.toNat, 10⟩, ⟨c.i.toNat, 10⟩, ⟨c.p.toNat, 100⟩⟩ else none

/-- The entry of a phase channel (R185). -/
def phaseView (c : PhaseRegs) : Option PhaseView :=
  if c.present then
    some ⟨⟨c.v.toNat, 10⟩, ⟨c.i.toNat, 10⟩, ⟨c.f.toNat, 100⟩, ⟨c.p.toNat, 100⟩⟩
  else none

/-- A timestamp byte as two digits with a leading zero (R185); a byte of three digits keeps them (log 10). -/
def twoDigits (b : Byte) : List Char := padZeros 2 (decimalDigits b.toNat)

/-- `YYYY-MM-DD hh:mm:ss` (R185). -/
def datetimeText (r : Reading) : List Char :=
  decimalDigits r.tsYear.toNat ++ ['-'] ++ twoDigits r.tsMon ++ ['-'] ++ twoDigits r.tsDay ++ [' '] ++
    twoDigits r.tsHour ++ [':'] ++ twoDigits r.tsMin ++ [':'] ++ twoDigits r.tsSec

/-- The whole view; nothing is to be read from the registers when `RESULT` is not 1 (R185). -/
def State.outputView (s : State) : Option OutputView :=
  if s.result = resultOk then
    some
      { datetime := datetimeText s.reading
        string1 := stringView s.reading.string1
        string2 := stringView s.reading.string2
        string3 := stringView s.reading.string3
        string4 := stringView s.reading.string4
        phase1 := phaseView s.reading.phase1
        phase2 := phaseView s.reading.phase2
        phase3 := phaseView s.reading.phase3
        powerToGrid := ⟨s.reading.gridP.toNat, 1⟩
        temperature := ⟨s.reading.temp.toNat, 10⟩
        yieldToday := ⟨s.reading.eDay.toNat, 10⟩
        yieldTotal := ⟨s.reading.eTotal.toNat, 10⟩
        workingHours := ⟨s.reading.hTotal.toNat, 1⟩ }
  else none

end Sys2Proof.Machine
end

