-- ==== Sys2Proof/Safety.lean ====
section
/-! DEFINITION. The terms that claims about GWFD use: a run without a recorded fault
(70_reset_and_hazards.md rule R230), the invariant of the registers, which states the host cannot tell
apart (R222), and a frame laid out in the buffer (20_memory.md rule R52). -/

namespace Sys2Proof.Machine

/-- A run is faulted when it ends with `ILLEGAL = 1` (R230, 93_implementation_defined.md I5). -/
def State.faulted (s : State) : Bool := s.illegal

/-- A string channel's registers agree among themselves (R176): present exactly when the voltage is not the
sentinel, and power the product of voltage and current, or 0. -/
structure StringRegs.Consistent (c : StringRegs) : Prop where
  present : c.present = true ↔ c.v ≠ 0xFFFF#16
  power : c.p.toNat = if c.present then c.v.toNat * c.i.toNat else 0

/-- The same of a phase channel (R178). -/
structure PhaseRegs.Consistent (c : PhaseRegs) : Prop where
  present : c.present = true ↔ c.v ≠ 0xFFFF#16
  power : c.p.toNat = if c.present then c.v.toNat * c.i.toNat else 0

/-- The reading registers hold a DecodedReading (R31 to R34). -/
structure Reading.Consistent (r : Reading) : Prop where
  year : r.tsYear.toNat = 2000 + r.tsYY.toNat
  string1 : r.string1.Consistent
  string2 : r.string2.Consistent
  string3 : r.string3.Consistent
  string4 : r.string4.Consistent
  phase1 : r.phase1.Consistent
  phase2 : r.phase2.Consistent
  phase3 : r.phase3.Consistent

/-- The invariant of the machine. `RESULT` is a legal code (R26); without a successful decode no reading
register holds anything (R120, R136); the diagnostics are those of the verdict (R28, R29, R133, R136); after
a successful decode the reading is one that a payload gives (R31 to R34). -/
structure State.Inv (s : State) : Prop where
  memory : Memory.wf s.fb = true
  resultLegal : s.result.toNat ≤ 4
  noReading : s.result ≠ resultOk → s.reading = Reading.zero
  noDiagnostics : s.result = resultNone ∨ s.result = errLength ∨ s.result = errHeader →
    s.crcExp = 0 ∧ s.crcRcv = 0
  crcsDiffer : s.result = errIntegrity → s.crcExp ≠ s.crcRcv
  crcsAgree : s.result = resultOk → s.crcExp = s.crcRcv
  readingConsistent : s.result = resultOk → s.reading.Consistent

/-- Two states that differ at most in bytes of `FB` that nothing has pushed since the last FRAME.CLEAR or
reset (R24, R222). -/
structure SameButUnpushed (s t : State) : Prop where
  wfLeft : Memory.wf s.fb = true
  wfRight : Memory.wf t.fb = true
  registers : t = { s with fb := t.fb }
  pushed : ∀ i : Nat, i < s.flen.toNat → i < Config.fbCap → t.fb.read i = s.fb.read i

/-- The 153 bytes that a payload makes into a frame (R138): `AA 55 || P || crcLo || crcHi`. -/
def frameOf (payload : List Byte) : List Byte :=
  Config.hdr0 :: Config.hdr1 :: payload ++ wireBytesLE (computeCrc16 payload)

/-- The buffer holds a frame that passes all three checks (R131 to R133). -/
structure State.ValidFrame (s : State) : Prop where
  length : s.flen = 153#16
  header : s.fb.read 0 = 0xAA#8 ∧ s.fb.read 1 = 0x55#8
  integrity : computeCrc16 (payloadOf s.fb) = receivedCrc s.fb

/-- Bit `k` of the byte at index `i` of the buffer flipped (R139). -/
def State.flipBit (s : State) (i k : Nat) : State :=
  { s with fb := s.fb.write i (s.fb.read i ^^^ (1#8 <<< k)) }

/-- The commands of a list issued in order (R62). -/
def runCommands (is : List Instr) (s : State) : Host.Outcome State Fault Refusal :=
  performAll (issueCommands is) s

end Sys2Proof.Machine
end

