-- ==== Sys2Proof/Certificates/Slice0/Obligations.lean ====
section
/-! DEFINITION. The statements about GWFD for the provers. OBLIGATIONS.json lists each with the rules it rests
on. Memory is spoken of through `Memory.read`, the model's read of one byte of `FB`. -/

open Sys2Proof Sys2Proof.Machine

/-! ## Encoding (30_encoding.md) -/

/-- Every command decodes from its own word, with every operand byte (R71 to R73). -/
def Obligations.DecodeOfEncode : Prop :=
  ∀ i : Instr, decode (encode i) = .ok i

/-- R76: every 16-bit word is exactly one command's, or is illegal and no command's. -/
def Obligations.EveryWordIsOneCommandOrIllegal : Prop :=
  ∀ w : Half,
    (∃ i, decode w = .ok i ∧ encode i = w ∧ ∀ j, encode j = w → j = i) ∨
    (∃ e, decode w = .error e ∧ ∀ j, encode j ≠ w)

/-- R74: the legal words, by opcode and immediate as numbers; every other word only sets `ILLEGAL`. -/
def Obligations.LegalWordsAreTheCommandWords : Prop :=
  ∀ w : Half,
    let op := w.toNat / 256
    let imm := w.toNat % 256
    let isLegal := op = 0x02 ∨ op = 0x11 ∨ ((op = 0x00 ∨ op = 0x01 ∨ op = 0x10 ∨ op = 0x12) ∧ imm = 0)
    ((∃ i, decode w = .ok i) ↔ isLegal) ∧
    (legal w = true ↔ isLegal) ∧
    (isLegal ↔ ∃ r ∈ opcodeTable, rowMatches r w = true) ∧
    (¬ isLegal → ∀ s, perform (.command w) s = .next { s with illegal := true })

/-- R75: a word that is no command is rejected with its reason, by the opcode: an opcode of the map whose
immediate is not 0, or an opcode outside the map. -/
def Obligations.IllegalWordsRejectedByName : Prop :=
  ∀ op imm : Byte,
    (op ∉ [0x00#8, 0x01#8, 0x02#8, 0x10#8, 0x11#8, 0x12#8] →
      decode (mkWord op imm) = .error (.reservedOpcode op)) ∧
    (op ∈ [0x00#8, 0x01#8, 0x10#8, 0x12#8] → imm ≠ 0 →
      decode (mkWord op imm) = .error (.nonzeroImm8 op imm))

/-- R73: at most one row of the opcode map matches any word. -/
def Obligations.AtMostOneRowMatches : Prop :=
  ∀ w : Half, (opcodeTable.filter (rowMatches · w)).length ≤ 1

/-- One word of each command, written out from R73 (95_test_vectors.md gives them). -/
def Obligations.SampleWordsDecode : Prop :=
  decode 0x0000 = .ok .nop ∧ decode 0x0100 = .ok .crcInit ∧ decode 0x027F = .ok (.crcByte 0x7F) ∧
  decode 0x1000 = .ok .frameClear ∧ decode 0x11AA = .ok (.framePush 0xAA) ∧
  decode 0x1200 = .ok .frameDecode

/-! ## The step and the host interface (20_memory.md R62, R66; 40_control.md R90) -/

/-- R62, R90: when the next interaction is a word that decodes, the step runs the decoded command on the state
from which the word is taken. That what the host has issued stands in the queue `inputs` is the model's choice
(log 1). -/
def Obligations.StepRunsTheDecodedCommand : Prop :=
  ∀ (s : State) (w : Half) (rest : List Interaction) (i : Instr),
    s.inputs = .command w :: rest → decode w = .ok i →
      step s = exec i { s with inputs := rest }

/-- An illegal word sets `ILLEGAL` and nothing else, and only a reset takes it back (R205). The queue `inputs`, and
that the step leaves `rest` in it, are the model's choice (log 1). -/
def Obligations.IllegalWordOnlySetsIllegal : Prop :=
  (∀ (s : State) (w : Half) (rest : List Interaction) (e : IllegalWord),
    s.inputs = .command w :: rest → decode w = .error e →
      step s = .next { s with inputs := rest, illegal := true }) ∧
  (∀ s t : State, s.illegal = true → s.inputs.head? ≠ some .reset → step s = .next t →
    t.illegal = true)

/-- `ILLEGAL` goes from 0 to 1 only at an illegal word, and from 1 to 0 only at a reset (R27, R204, R205). That the
interaction is read off the queue `inputs` is the model's choice (log 1). -/
def Obligations.OnlyIllegalWordsSetIllegal : Prop :=
  ∀ s t : State, step s = .next t →
    (s.illegal = false → t.illegal = true →
      ∃ w rest, s.inputs = .command w :: rest ∧ legal w = false) ∧
    (s.illegal = true → t.illegal = false → s.inputs.head? = some .reset)

/-- A read gives one word and changes no register; read twice, it gives the same word (R57). The queue `inputs`
that the step takes the read from is the model's choice (log 1), and so is the list `replies` that keeps what the
host got back (log 5). -/
def Obligations.ReadChangesNoRegister : Prop :=
  ∀ (s : State) (a : Byte),
    (∀ rest, s.inputs = .read a :: rest →
      step s = .next { s with inputs := rest, replies := s.readPort a :: s.replies }) ∧
    performAll [.read a, .read a] s =
      .next { s with replies := s.readPort a :: s.readPort a :: s.replies }

/-- What every register holds after a reset, whatever the state before (R38); a second reset changes nothing
(R220). What `FB` holds is left open, as the rules leave it; that a second reset leaves it the same is the model's
choice (log 3). That the parameter stays is the model's choice (log 4), as it is that the queue `inputs` (log 1) and
the list `replies` (log 5) stay. -/
def Obligations.ResetSetsEveryRegister : Prop :=
  ∀ s : State, ∃ t : State, perform .reset s = .next t ∧
    t.crc = 0xFFFF ∧ t.flen = 0 ∧ t.result = 0 ∧ t.illegal = false ∧ t.crcExp = 0 ∧ t.crcRcv = 0 ∧
    t.reading = Reading.zero ∧ t.offsetBias = s.offsetBias ∧ t.inputs = s.inputs ∧
    t.replies = s.replies ∧ perform .reset t = .next t

/-- The whole read image after reset (R38, R41, R44): 0xFFFF at the two addresses that show `CRC` whole, 0 at
every other. -/
def Obligations.ResetReadImage : Prop :=
  ∀ a : Byte, State.reset.readPort a = if a = 0x01 ∨ a = 0x41 then 0xFFFF else 0

/-- With nothing issued the block holds its state (R216). That this is a step at all is the model's choice
(log 2). -/
def Obligations.IdleStepHoldsState : Prop :=
  ∀ s : State, s.inputs = [] → step s = .next s

/-- From every state the step answers a next state. For a command this is R90, for a read R57, for a reset R220; with
nothing issued, that there is a step at all is the model's choice (log 2). That the step takes exactly one
interaction off the queue `inputs` is the model's choice (log 1), and so is that `OFFSET_BIAS`, fixed for a run
(R230), is a field that no step changes (log 4). -/
def Obligations.EveryStepFinishes : Prop :=
  ∀ s : State, ∃ t : State, step s = .next t ∧ t.inputs = s.inputs.tail ∧ t.offsetBias = s.offsetBias

/-- A run takes the interactions in the order the host issued them, each seeing the state that the ones before it
left (R62). The queue `inputs` that they wait in is the model's choice (log 1). -/
def Obligations.RunFollowsHostOrder : Prop :=
  ∀ (xs rest : List Interaction) (s : State), ∃ t : State,
    performAll xs { s with inputs := rest } = .next t ∧
    Sys2Proof.core.run xs.length { s with inputs := xs ++ rest } = .next t

/-! ## NOP and the CRC generator (40_control.md, 41_crc.md) -/

/-- R91: NOP is the word 0 alone and changes nothing; a word 0x00nn with nn not 0 is illegal. -/
def Obligations.NopChangesNothing : Prop :=
  (∀ w : Half, decode w = .ok .nop ↔ w = 0x0000) ∧ (∀ s : State, exec .nop s = .next s) ∧
  ∀ (s : State) (nn : Byte), nn ≠ 0 → perform (.command (mkWord 0x00 nn)) s = .next { s with illegal := true }

/-- R105: CRC.INIT is the word 0x0100 alone and sets `CRC` to 0xFFFF, and nothing else; a word 0x01nn with nn
not 0 is illegal. -/
def Obligations.CrcInitSetsAccumulator : Prop :=
  (∀ w : Half, decode w = .ok .crcInit ↔ w = 0x0100) ∧
  (∀ (s : State) (nn : Byte), nn ≠ 0 →
    perform (.command (mkWord 0x01 nn)) s = .next { s with illegal := true }) ∧
  ∀ s : State, exec .crcInit s = .next { s with crc := 0xFFFF }

/-- R106: CRC.BYTE b is the word 0x02bb and folds the byte into `CRC`, and nothing else. -/
def Obligations.CrcByteFoldsOneByte : Prop :=
  (∀ (w : Half) (b : Byte), decode w = .ok (.crcByte b) ↔ w.toNat = 0x0200 + b.toNat) ∧
  ∀ (s : State) (b : Byte),
    exec (.crcByte b) s = .next { s with crc := crcRound^[8] (s.crc ^^^ b.setWidth 16) }

/-- R100: one round, as numbers: halve, and XOR with 0xA001 when the number was odd. -/
def Obligations.CrcRoundHalvesAndXors : Prop :=
  ∀ c : Half, (crcRound c).toNat = if c.toNat % 2 = 1 then (c.toNat / 2) ^^^ 0xA001 else c.toNat / 2

/-- R101: the corner cases of one round; bit 15 of the result is bit 0 of the input. -/
def Obligations.CrcRoundCorners : Prop :=
  crcRound 0x0000 = 0x0000 ∧ crcRound 0x0001 = 0xA001 ∧ crcRound 0xFFFF = 0xDFFE ∧
  crcRound 0xFFFE = 0x7FFF ∧ crcRound 0x8000 = 0x4000 ∧ crcRound 0xA001 = 0xF001 ∧
  ∀ c : Half, (crcRound c).getLsbD 15 = c.getLsbD 0

/-- R104: the sequence function, byte by byte in sequence order, with 0xFFFF for the empty sequence. -/
def Obligations.SequenceCrcFoldsInOrder : Prop :=
  computeCrc16 [] = 0xFFFF ∧
  ∀ (bs : List Byte) (b : Byte), computeCrc16 (bs ++ [b]) = crcByte (computeCrc16 bs) b

/-- Which accumulators a zero byte leaves as they are: 0, and 0xC001 as well. R103 and R106 say in a derived
remark that only 0 is; R100 and R102 give 0xC001 too, and the model follows them (log 12). -/
def Obligations.ZeroByteFixedPoints : Prop :=
  ∀ c : Half, crcByte c 0x00 = c ↔ c = 0x0000 ∨ c = 0xC001

/-- One byte's fold loses nothing: it is one-to-one in the accumulator and in the byte (R102). -/
def Obligations.CrcByteIsInjective : Prop :=
  (∀ (c c' : Half) (b : Byte), crcByte c b = crcByte c' b → c = c') ∧
  (∀ (c : Half) (b b' : Byte), crcByte c b = crcByte c b' → b = b')

/-- R79: CRC.SEQ expands to CRC.INIT and the bytes, and leaves `computeCrc16` of them in `CRC`; R225: bytes
that follow without a CRC.INIT continue the same computation. -/
def Obligations.CrcSequenceComputesCrc : Prop :=
  ∀ (bs cs : List Byte) (s : State),
    expandCommands .crcSeq bs = some (.crcInit :: bs.map .crcByte) ∧
    (issueCommands (.crcInit :: bs.map .crcByte)).length = bs.length + 1 ∧
    runCommands (.crcInit :: bs.map .crcByte) s = .next { s with crc := computeCrc16 bs } ∧
    runCommands (cs.map .crcByte) { s with crc := computeCrc16 bs } =
      .next { s with crc := computeCrc16 (bs ++ cs) }

/-- R108, R128: the frame commands neither read nor write `CRC`, and a CRC command may stand on either side
of a frame command. -/
def Obligations.CrcAndFrameAreIndependent : Prop :=
  ∀ (s : State) (b b' : Byte) (i j : Instr),
    i ∈ [.crcInit, .crcByte b] → j ∈ [.frameClear, .framePush b', .frameDecode] →
      runCommands [i, j] s = runCommands [j, i] s ∧
      ∃ t : State, exec j s = .next t ∧ t.crc = s.crc ∧
        ∀ c : Half, exec j { s with crc := c } = .next { t with crc := c }

/-! ## The frame decoder (42_frame.md) -/

/-- R120: FRAME.CLEAR is the word 0x1000 alone and clears what the rule lists; `CRC`, `ILLEGAL` and `FB` stay.
A word 0x10nn with nn not 0 is illegal. -/
def Obligations.FrameClearClears : Prop :=
  (∀ w : Half, decode w = .ok .frameClear ↔ w = 0x1000) ∧
  (∀ (s : State) (nn : Byte), nn ≠ 0 →
    perform (.command (mkWord 0x10 nn)) s = .next { s with illegal := true }) ∧
  ∀ s : State, exec .frameClear s =
    .next { s with flen := 0, result := 0, crcExp := 0, crcRcv := 0, reading := Reading.zero }

/-- R124: FRAME.PUSH b is the word 0x11bb. Below 153 it stores the byte at `FLEN`; the count saturates at
0xFFFF; every other byte of `FB` and every other register stays. So n pushes after a FRAME.CLEAR count to
min(n, 0xFFFF). That the buffer has a canonical form, which the push keeps, is the model's choice (log 3). -/
def Obligations.FramePushStoresAndCounts : Prop :=
  (∀ (w : Half) (b : Byte), decode w = .ok (.framePush b) ↔ w.toNat = 0x1100 + b.toNat) ∧
  (∀ (bs : List Byte) (s : State), ∃ t : State,
    runCommands (.frameClear :: bs.map .framePush) s = .next t ∧ t.flen.toNat = min bs.length 0xFFFF) ∧
  ∀ (s : State) (b : Byte), Memory.wf s.fb = true → ∃ t : State,
    exec (.framePush b) s = .next t ∧
    t = { s with fb := t.fb, flen := t.flen } ∧
    t.flen.toNat = min (s.flen.toNat + 1) 0xFFFF ∧
    (s.flen.toNat < 153 → t.fb.read s.flen.toNat = b) ∧
    (∀ a : Nat, (s.flen.toNat < 153 → a ≠ s.flen.toNat) → t.fb.read a = s.fb.read a) ∧
    Memory.wf t.fb = true

/-- R80: FRAME.LOAD expands to FRAME.CLEAR and the pushes; after it `FLEN` counts the bytes up to 0xFFFF, the
first 153 stand in `FB` in order, and the outcome of an earlier decode is gone. -/
def Obligations.FrameLoadFillsBuffer : Prop :=
  ∀ (bs : List Byte) (s : State), Memory.wf s.fb = true →
    expandCommands .frameLoad bs = some (.frameClear :: bs.map .framePush) ∧
    (issueCommands (.frameClear :: bs.map .framePush)).length = bs.length + 1 ∧
    ∃ t : State,
      runCommands (.frameClear :: bs.map .framePush) s = .next t ∧
      t.flen.toNat = min bs.length 0xFFFF ∧
      (∀ i : Nat, i < min bs.length 153 → bs[i]? = some (t.fb.read i)) ∧
      (∀ i : Nat, min bs.length 153 ≤ i → t.fb.read i = s.fb.read i) ∧
      t = { s with fb := t.fb, flen := t.flen, result := 0, crcExp := 0, crcRcv := 0,
                   reading := Reading.zero }

/-- The word of FRAME.DECODE (R127), and its length check (R131, R136): any count but 153 is ERR_LENGTH,
whatever the bytes. -/
def Obligations.DecodeWrongLength : Prop :=
  (∀ w : Half, decode w = .ok .frameDecode ↔ w = 0x1200) ∧
  ∀ s : State, s.flen ≠ 153 → exec .frameDecode s =
    .next { s with result := 2, reading := Reading.zero, crcExp := 0, crcRcv := 0 }

/-- The header check (R132, R136): with the length right, any first two bytes but `AA 55` are ERR_HEADER. -/
def Obligations.DecodeWrongHeader : Prop :=
  ∀ s : State, s.flen = 153 → ¬ (s.fb.read 0 = 0xAA ∧ s.fb.read 1 = 0x55) → exec .frameDecode s =
    .next { s with result := 3, reading := Reading.zero, crcExp := 0, crcRcv := 0 }

/-- The integrity check (R133, R136): with length and header right and the CRCs different, ERR_INTEGRITY, with
both CRCs kept. -/
def Obligations.DecodeWrongCrc : Prop :=
  ∀ s : State, s.flen = 153 → s.fb.read 0 = 0xAA → s.fb.read 1 = 0x55 →
    computeCrc16 ((List.range 149).map fun o => s.fb.read (2 + o)) ≠
      le16 (s.fb.read 151) (s.fb.read 152) →
    exec .frameDecode s =
      .next { s with
        result := 4
        reading := Reading.zero
        crcExp := computeCrc16 ((List.range 149).map fun o => s.fb.read (2 + o))
        crcRcv := le16 (s.fb.read 151) (s.fb.read 152) }

/-- The success of FRAME.DECODE (R127, R133 to R135): with all three checks passed it completes with OK, the
two equal CRCs and the decoded fields, and nothing else changes. -/
def Obligations.DecodeValidFrame : Prop :=
  ∀ s : State, s.flen = 153 → s.fb.read 0 = 0xAA → s.fb.read 1 = 0x55 →
    computeCrc16 ((List.range 149).map fun o => s.fb.read (2 + o)) =
      le16 (s.fb.read 151) (s.fb.read 152) →
    exec .frameDecode s =
      .next { s with
        result := 1
        reading := decodeFields s.fb s.offsetBias
        crcExp := le16 (s.fb.read 151) (s.fb.read 152)
        crcRcv := le16 (s.fb.read 151) (s.fb.read 152) }

/-- R206 (with R201 to R204): the first check that fails is the one reported, in the order length, header,
integrity; a legal command never reports an illegal word, and an illegal word never a decode error. -/
def Obligations.FirstFailingCheckIsReported : Prop :=
  (∀ s : State, ∃ t : State, exec .frameDecode s = .next t ∧ t.illegal = s.illegal ∧
    t.result =
      if s.flen ≠ 153 then 2
      else if s.fb.read 0 ≠ 0xAA ∨ s.fb.read 1 ≠ 0x55 then 3
      else if computeCrc16 ((List.range 149).map fun o => s.fb.read (2 + o)) ≠
        le16 (s.fb.read 151) (s.fb.read 152) then 4
      else 1) ∧
  (∀ (s : State) (i : Instr), ∃ t : State, exec i s = .next t ∧ t.illegal = s.illegal) ∧
  (∀ (s : State) (w : Half), legal w = false →
    ∃ t : State, perform (.command w) s = .next t ∧ t.result = s.result ∧ t.illegal = true)

/-- R136: what a failed FRAME.DECODE leaves, whichever check failed. -/
def Obligations.FailedDecodeLeavesNoReading : Prop :=
  ∀ s t : State, exec .frameDecode s = .next t → t.result ≠ 1 →
    t = { s with result := t.result, reading := Reading.zero, crcExp := t.crcExp, crcRcv := t.crcRcv } ∧
    (t.result = 2 ∨ t.result = 3 ∨ t.result = 4) ∧
    (t.result = 2 ∨ t.result = 3 → t.crcExp = 0 ∧ t.crcRcv = 0) ∧
    (t.result = 4 → t.crcExp = computeCrc16 ((List.range 149).map fun o => s.fb.read (2 + o)) ∧
      t.crcRcv = le16 (s.fb.read 151) (s.fb.read 152))

/-- R137: a second FRAME.DECODE changes nothing, whatever the host does in between but FRAME.CLEAR, FRAME.PUSH
and reset; with no frame loaded it is ERR_LENGTH; what it writes depends on `FLEN`, `FB` and `OFFSET_BIAS` alone. -/
def Obligations.DecodeIsRepeatable : Prop :=
  (∀ (s : State) (xs : List Interaction),
    (∀ x ∈ xs, x ≠ .reset ∧ x ≠ .command 0x1000 ∧ ∀ b : Byte, x ≠ .command (mkWord 0x11 b)) →
    ∃ t u : State, exec .frameDecode s = .next t ∧ performAll xs t = .next u ∧
      u.result = t.result ∧ u.reading = t.reading ∧ u.crcExp = t.crcExp ∧ u.crcRcv = t.crcRcv ∧
      exec .frameDecode u = .next u) ∧
  (∀ s : State, s.flen = 0 → ∃ t : State, exec .frameDecode s = .next t ∧ t.result = 2) ∧
  (∀ s s' : State, s'.flen = s.flen → (∀ i : Nat, i < 153 → s'.fb.read i = s.fb.read i) →
    s'.offsetBias = s.offsetBias →
    ∃ t t' : State, exec .frameDecode s = .next t ∧ exec .frameDecode s' = .next t' ∧
      t'.result = t.result ∧ t'.reading = t.reading ∧ t'.crcExp = t.crcExp ∧ t'.crcRcv = t.crcRcv)

/-- R138: a frame built from any payload, loaded and decoded (FRAME.POLL, R81), gives OK from every state, and
the reading is the one that the payload's bytes give. -/
def Obligations.FrameRoundTrip : Prop :=
  ∀ (payload : List Byte) (s : State), payload.length = 149 → Memory.wf s.fb = true →
    expandCommands .framePoll (frameOf payload) =
      some (.frameClear :: (frameOf payload).map .framePush ++ [.frameDecode]) ∧
    ∃ t : State,
      runCommands (.frameClear :: (frameOf payload).map .framePush ++ [.frameDecode]) s = .next t ∧
      t.result = 1 ∧ t.flen = 153 ∧ t.crcExp = computeCrc16 payload ∧ t.crcRcv = computeCrc16 payload ∧
      (∀ o : Nat, o < 149 → payload[o]? = some (payloadByte t.fb o)) ∧
      t.reading = decodeFields t.fb s.offsetBias ∧ t.crc = s.crc ∧ t.illegal = s.illegal

/-- R139: any one bit flipped in a valid frame is found: ERR_HEADER in the header, ERR_INTEGRITY in the payload
or the trailer. -/
def Obligations.EverySingleBitFlipIsFound : Prop :=
  ∀ (s : State) (i k : Nat), Memory.wf s.fb = true → s.ValidFrame → i < 153 → k < 8 →
    ∃ t : State, exec .frameDecode (s.flipBit i k) = .next t ∧ t.result = if i < 2 then 3 else 4

/-! ## Fields, scaler and sentinel (43_fields.md) -/

/-- R150, R151: the big-endian reads as numbers, and the little-endian read that R152 defines. -/
def Obligations.ByteOrdersAsNumbers : Prop :=
  (∀ (m : Memory) (i : Nat),
    (be16 m i).toNat = (m.read (2 + i)).toNat * 256 + (m.read (2 + (i + 1))).toNat) ∧
  (∀ (m : Memory) (i : Nat),
    (be32 m i).toNat = (m.read (2 + i)).toNat * 2 ^ 24 + (m.read (2 + (i + 1))).toNat * 2 ^ 16 +
      (m.read (2 + (i + 2))).toNat * 2 ^ 8 + (m.read (2 + (i + 3))).toNat) ∧
  (∀ lo hi : Byte, (le16 lo hi).toNat = lo.toNat + 256 * hi.toNat)

/-- R153: the converter. The register value is the swapped little-endian pair, and its byte lanes come least
significant first. -/
def Obligations.ConverterSwapsByteOrder : Prop :=
  (∀ (m : Memory) (i : Nat), be16 m i = swap16 (le16 (payloadByte m i) (payloadByte m (i + 1)))) ∧
  (∀ x : Half, swap16 (swap16 x) = x) ∧
  (∀ (m : Memory) (i : Nat), byteLanes ((be16 m i).setWidth 32) =
    [payloadByte m (i + 1), payloadByte m i, 0x00, 0x00]) ∧
  (∀ (m : Memory) (i : Nat), byteLanes (be32 m i) =
    [payloadByte m (i + 3), payloadByte m (i + 2), payloadByte m (i + 1), payloadByte m i])

/-- R154: for every bias the fields read the payload alone: two buffers with the same payload bytes give the
same reading. -/
def Obligations.FieldsReadOnlyThePayload : Prop :=
  ∀ (m m' : Memory) (bias : Fin 51), (∀ i : Nat, 2 ≤ i → i ≤ 150 → m'.read i = m.read i) →
    decodeFields m' bias = decodeFields m bias

/-- R155: quotient and remainder determine the raw value and are determined by it, and the exact scaled value is
the quotient and the remainder's fraction. -/
def Obligations.ScalerIsExact : Prop :=
  ∀ r d : Nat, d ∈ [1, 10, 100] →
    r = scaleQ r d * d + scaleR r d ∧ scaleR r d < d ∧
    (∀ q x : Nat, r = q * d + x → x < d → q = scaleQ r d ∧ x = scaleR r d) ∧
    (Scaled.mk r d).value = (scaleQ r d : ℚ) + (scaleR r d : ℚ) / (d : ℚ)

/-- R160, R161: the raw comparison and the comparison of the scaled value with 6553.5 agree. -/
def Obligations.SentinelRawAndScaledAgree : Prop :=
  ∀ v : Half, (isSentinel v = true ↔ v.toNat = 65535) ∧
    (isSentinel v = true ↔ (Scaled.mk v.toNat 10).value = 6553.5)

/-- R175: the power of a present channel is the exact product, fits in 32 bits, and scales to the product of the
scaled values. -/
def Obligations.PowerIsExactProduct : Prop :=
  ∀ v i : Half, v ≠ 0xFFFF →
    (channelPower v i).toNat = v.toNat * i.toNat ∧
    (channelPower v i).toNat ≤ 4294770690 ∧
    (Scaled.mk (channelPower v i).toNat 100).value =
      (Scaled.mk v.toNat 10).value * (Scaled.mk i.toNat 10).value

/-- R176: each string channel from its payload bytes, for every bias. -/
def Obligations.StringChannelsFromPayload : Prop :=
  ∀ (m : Memory) (bias : Fin 51) (k : Nat) (c : StringRegs),
    [(decodeFields m bias).string1, (decodeFields m bias).string2, (decodeFields m bias).string3,
      (decodeFields m bias).string4][k]? = some c →
    let p := fun o : Nat => (m.read (2 + (o + bias.val))).toNat
    c.v.toNat = p (7 + 4 * k) * 256 + p (8 + 4 * k) ∧
    c.i.toNat = p (9 + 4 * k) * 256 + p (10 + 4 * k) ∧
    (c.present = true ↔ c.v.toNat ≠ 0xFFFF) ∧
    c.p.toNat = if c.v.toNat = 0xFFFF then 0 else c.v.toNat * c.i.toNat

/-- R178: each phase channel from its payload bytes, for every bias. -/
def Obligations.PhaseChannelsFromPayload : Prop :=
  ∀ (m : Memory) (bias : Fin 51) (j : Nat) (c : PhaseRegs),
    [(decodeFields m bias).phase1, (decodeFields m bias).phase2, (decodeFields m bias).phase3][j]? = some c →
    let p := fun o : Nat => (m.read (2 + (o + bias.val))).toNat
    c.v.toNat = p (37 + 2 * j) * 256 + p (38 + 2 * j) ∧
    c.i.toNat = p (43 + 2 * j) * 256 + p (44 + 2 * j) ∧
    c.f.toNat = p (49 + 2 * j) * 256 + p (50 + 2 * j) ∧
    (c.present = true ↔ c.v.toNat ≠ 0xFFFF) ∧
    c.p.toNat = if c.v.toNat = 0xFFFF then 0 else c.v.toNat * c.i.toNat

/-- R170, R172: the timestamp bytes as they are, whatever they are, and the year 2000 + yy without wrap. -/
def Obligations.TimestampFromPayload : Prop :=
  ∀ (m : Memory) (bias : Fin 51),
    let r := decodeFields m bias
    let p := fun o : Nat => m.read (2 + (o + bias.val))
    r.tsYY = p 1 ∧ r.tsMon = p 2 ∧ r.tsDay = p 3 ∧ r.tsHour = p 4 ∧ r.tsMin = p 5 ∧ r.tsSec = p 6 ∧
    r.tsYear.toNat = 2000 + (p 1).toNat ∧ r.tsYear.toNat = 2000 + r.tsYY.toNat ∧
    2000 ≤ r.tsYear.toNat ∧ r.tsYear.toNat ≤ 2255

/-- R180 to R184: the scalar fields, unsigned, from their payload bytes, and the divisors of their registers. -/
def Obligations.ScalarsFromPayload : Prop :=
  ∀ (m : Memory) (bias : Fin 51),
    let r := decodeFields m bias
    let p := fun o : Nat => (m.read (2 + (o + bias.val))).toNat
    r.gridP.toNat = p 57 * 256 + p 58 ∧ r.temp.toNat = p 83 * 256 + p 84 ∧
    r.eDay.toNat = p 89 * 256 + p 90 ∧
    r.eTotal.toNat = p 91 * 2 ^ 24 + p 92 * 2 ^ 16 + p 93 * 2 ^ 8 + p 94 ∧
    r.hTotal.toNat = p 97 * 256 + p 98 ∧
    [divisor 0x30, divisor 0x31, divisor 0x32, divisor 0x33, divisor 0x34] = [1, 10, 10, 10, 1]

/-! ## The read port (10_state.md) -/

/-- R40: the four windows. -/
def Obligations.ReadPortWindows : Prop :=
  ∀ (s : State) (a : Nat),
    (a < 0x40 →
      (s.readPort (BitVec.ofNat 8 (0x40 + a))).toNat =
        (s.readPort (BitVec.ofNat 8 a)).toNat / divisor (BitVec.ofNat 8 a) ∧
      (s.readPort (BitVec.ofNat 8 (0x80 + a))).toNat =
        (s.readPort (BitVec.ofNat 8 a)).toNat % divisor (BitVec.ofNat 8 a)) ∧
    (0xC0 ≤ a → a ≤ 0xFF → s.readPort (BitVec.ofNat 8 a) = 0)

/-- R41: the raw window, register by register; what is not listed reads 0. -/
def Obligations.RegisterMap : Prop :=
  ∀ s : State,
    let rd := fun a : Nat => (s.readPort (BitVec.ofNat 8 a)).toNat
    let r := s.reading
    [rd 0x01, rd 0x02, rd 0x03, rd 0x04] =
      [s.crc.toNat, s.flen.toNat, s.crcExp.toNat, s.crcRcv.toNat] ∧
    [rd 0x06, rd 0x07, rd 0x08, rd 0x09, rd 0x0A, rd 0x0B, rd 0x0C] =
      [r.tsYear.toNat, r.tsYY.toNat, r.tsMon.toNat, r.tsDay.toNat, r.tsHour.toNat, r.tsMin.toNat,
        r.tsSec.toNat] ∧
    (∀ (k : Nat) (c : StringRegs), [r.string1, r.string2, r.string3, r.string4][k]? = some c →
      rd (0x10 + 4 * k) = c.v.toNat ∧ rd (0x11 + 4 * k) = c.i.toNat ∧ rd (0x12 + 4 * k) = c.p.toNat ∧
      rd (0x13 + 4 * k) = 0) ∧
    (∀ (j : Nat) (c : PhaseRegs), [r.phase1, r.phase2, r.phase3][j]? = some c →
      rd (0x20 + 4 * j) = c.v.toNat ∧ rd (0x21 + 4 * j) = c.i.toNat ∧ rd (0x22 + 4 * j) = c.f.toNat ∧
      rd (0x23 + 4 * j) = c.p.toNat) ∧
    [rd 0x30, rd 0x31, rd 0x32, rd 0x33, rd 0x34] =
      [r.gridP.toNat, r.temp.toNat, r.eDay.toNat, r.eTotal.toNat, r.hTotal.toNat] ∧
    (∀ a : Nat, (0x0D ≤ a ∧ a ≤ 0x0F) ∨ (0x2C ≤ a ∧ a ≤ 0x2F) ∨ (0x35 ≤ a ∧ a ≤ 0x3F) → rd a = 0)

/-- R45 (with R13): the divisors the scaled windows use, channel by channel. -/
def Obligations.ScaledWindowDivisors : Prop :=
  ∀ s : State,
    let rd := fun a : Nat => (s.readPort (BitVec.ofNat 8 a)).toNat
    let scaled := fun (a d : Nat) => rd a = rd (0x40 + a) * d + rd (0x80 + a) ∧ rd (0x80 + a) < d
    (∀ a ∈ [0x10, 0x11, 0x14, 0x15, 0x18, 0x19, 0x1C, 0x1D, 0x20, 0x21, 0x24, 0x25, 0x28, 0x29, 0x31,
      0x32, 0x33], scaled a 10) ∧
    (∀ a ∈ [0x12, 0x16, 0x1A, 0x1E, 0x22, 0x23, 0x26, 0x27, 0x2A, 0x2B], scaled a 100) ∧
    (∀ a ∈ [0x00, 0x01, 0x02, 0x03, 0x04, 0x05, 0x06, 0x07, 0x08, 0x09, 0x0A, 0x0B, 0x0C, 0x30, 0x34],
      scaled a 1)

/-- R42: STATUS holds `RESULT` below `ILLEGAL` and nothing else; in every state the invariant allows, the code
is at most 4. -/
def Obligations.StatusWordFields : Prop :=
  ∀ s : State,
    (s.readPort 0x00).toNat = s.result.toNat + (if s.illegal then 8 else 0) ∧
    (s.Inv → (s.readPort 0x00).toNat % 8 ≤ 4)

/-- R43: bit n of PRESENT is the present flag of string n + 1, then of the phases; the other bits are 0; after
reset all are. -/
def Obligations.PresentWordBits : Prop :=
  State.reset.readPort 0x05 = 0 ∧
  ∀ (s : State) (n : Nat),
    (s.readPort 0x05).getLsbD n =
      [s.reading.string1.present, s.reading.string2.present, s.reading.string3.present,
        s.reading.string4.present, s.reading.phase1.present, s.reading.phase2.present,
        s.reading.phase3.present].getD n false

/-! ## Invariants and whole-machine rules -/

/-- The invariant holds after reset. The registers are R38's; that the buffer is then in canonical form is the
model's choice (log 3). -/
def Obligations.InvariantAtReset : Prop := State.reset.Inv

/-- Every step keeps the invariant: a legal `RESULT`, no reading without a successful decode, the diagnostics of the
verdict, and registers of a reading that agree among themselves (R26, R28 to R34, R136); and the buffer's canonical
form, which is the model's choice (log 3). -/
def Obligations.StepKeepsInvariant : Prop :=
  ∀ s t : State, s.Inv → step s = .next t → t.Inv

/-- R24, R222: bytes of `FB` that nothing has pushed cannot be observed. Two states that differ in them alone
step to states that differ in them alone, and the host sees the same of both. The canonical form of the two buffers
is the model's choice (log 3). -/
def Obligations.UnpushedBytesAreUnobservable : Prop :=
  ∀ s t : State, SameButUnpushed s t →
    t.observe = s.observe ∧
    ∃ s' t' : State, step s = .next s' ∧ step t = .next t' ∧ SameButUnpushed s' t'

/-- R22's column "written by": which interaction alone can change each piece of state. That the interaction is read
off the queue `inputs` (log 1), and that a reset may change `FB` (log 3), are the model's choices. -/
def Obligations.WhoWritesWhat : Prop :=
  ∀ s t : State, step s = .next t →
    let cmd := fun op : Nat => ∃ w rest, s.inputs = .command w :: rest ∧ legal w = true ∧ w.toNat / 256 = op
    let rst := s.inputs.head? = some .reset
    (t.crc ≠ s.crc → cmd 0x01 ∨ cmd 0x02 ∨ rst) ∧
    ((∃ i : Nat, t.fb.read i ≠ s.fb.read i) → cmd 0x11 ∨ rst) ∧
    (t.flen ≠ s.flen → cmd 0x10 ∨ cmd 0x11 ∨ rst) ∧
    (t.result ≠ s.result → cmd 0x10 ∨ cmd 0x12 ∨ rst) ∧
    (t.crcExp ≠ s.crcExp → cmd 0x10 ∨ cmd 0x12 ∨ rst) ∧
    (t.crcRcv ≠ s.crcRcv → cmd 0x10 ∨ cmd 0x12 ∨ rst) ∧
    (t.reading ≠ s.reading → cmd 0x10 ∨ cmd 0x12 ∨ rst)

/-- Two buffers in canonical form that read the same everywhere are the same list: equal contents are equal
data (the model's own form, log 3). -/
def Obligations.CanonicalMemoryIsExtensional : Prop :=
  ∀ m m' : Memory, Memory.wf m = true → Memory.wf m' = true →
    (∀ i : Nat, m.read i = m'.read i) → m = m'

/-! ## The consumer's view and the assembler -/

/-- R185: nothing is read unless `RESULT` is 1; then a channel has an entry exactly when it is present, with its
scaled values, and the scalars are always there. -/
def Obligations.OutputViewOmitsAbsentChannels : Prop :=
  ∀ s : State,
    (s.outputView = none ↔ s.result ≠ 1) ∧
    ∀ v : OutputView, s.outputView = some v →
      (∀ (k : Nat) (c : StringRegs) (e : Option StringView),
        [s.reading.string1, s.reading.string2, s.reading.string3, s.reading.string4][k]? = some c →
        [v.string1, v.string2, v.string3, v.string4][k]? = some e →
        e = if c.present then some ⟨⟨c.v.toNat, 10⟩, ⟨c.i.toNat, 10⟩, ⟨c.p.toNat, 100⟩⟩ else none) ∧
      (∀ (j : Nat) (c : PhaseRegs) (e : Option PhaseView),
        [s.reading.phase1, s.reading.phase2, s.reading.phase3][j]? = some c →
        [v.phase1, v.phase2, v.phase3][j]? = some e →
        e = if c.present then
          some ⟨⟨c.v.toNat, 10⟩, ⟨c.i.toNat, 10⟩, ⟨c.f.toNat, 100⟩, ⟨c.p.toNat, 100⟩⟩ else none) ∧
      v.powerToGrid = ⟨s.reading.gridP.toNat, 1⟩ ∧ v.temperature = ⟨s.reading.temp.toNat, 10⟩ ∧
      v.yieldToday = ⟨s.reading.eDay.toNat, 10⟩ ∧ v.yieldTotal = ⟨s.reading.eTotal.toNat, 10⟩ ∧
      v.workingHours = ⟨s.reading.hTotal.toNat, 1⟩

/-- R78, R83: an operand out of range, or one missing or extra, is an assembler error; in range, the line gives
the command whose word decodes to it, or the raw word as it stands. -/
def Obligations.AssemblerAcceptsExactlyTheRange : Prop :=
  (∀ ns : List Nat,
    (∀ n : Nat, ns = [n] → n < 256 → ∃ w : Half,
      assembleLine ⟨.crcByte, ns, none⟩ = .ok [.command w] ∧ decode w = .ok (.crcByte (BitVec.ofNat 8 n))) ∧
    (∀ n : Nat, ns = [n] → n < 256 → ∃ w : Half,
      assembleLine ⟨.framePush, ns, none⟩ = .ok [.command w] ∧
        decode w = .ok (.framePush (BitVec.ofNat 8 n))) ∧
    (¬ (∃ n : Nat, ns = [n] ∧ n < 256) →
      assembleLine ⟨.crcByte, ns, none⟩ = .error .illFormed ∧
      assembleLine ⟨.framePush, ns, none⟩ = .error .illFormed)) ∧
  (∀ n : Nat,
    (n < 65536 → assembleLine ⟨.dotWord, [n], none⟩ = .ok [.command (BitVec.ofNat 16 n)]) ∧
    (65536 ≤ n → assembleLine ⟨.dotWord, [n], none⟩ = .error .illFormed))
end

