-- ==== Sys2Proof/Laws/Crc.lean ====
section
/-! SUPPORT. A form of the CRC of a sequence that Lean's kernel evaluates one byte at a time. -/

namespace Sys2Proof.Machine

/-- `crcFold` with the accumulator as a number that is matched on before the next byte, so that evaluation
on a long sequence does not nest. -/
def crcFoldStrict : List Byte → Nat → Half
  | [], n => BitVec.ofNat 16 n
  | b :: bs, n =>
    match (crcByte (BitVec.ofNat 16 n) b).toNat with
    | 0 => crcFoldStrict bs 0
    | k + 1 => crcFoldStrict bs (k + 1)

theorem crcFoldStrict_cons (b : Byte) (bs : List Byte) (n : Nat) :
    crcFoldStrict (b :: bs) n = crcFoldStrict bs (crcByte (BitVec.ofNat 16 n) b).toNat := by
  rw [crcFoldStrict]
  split
  · next h => rw [h]
  · next k h => rw [h]

/-- The two forms are equal. -/
theorem crcFoldStrict_eq (bs : List Byte) (n : Nat) :
    crcFoldStrict bs n = crcFold (BitVec.ofNat 16 n) bs := by
  induction bs generalizing n with
  | nil => rfl
  | cons b bs ih => rw [crcFoldStrict_cons, ih, BitVec.ofNat_toNat, BitVec.setWidth_eq]; rfl

/-- To compute `computeCrc16` of a concrete sequence, evaluate the right-hand side. -/
theorem computeCrc16_eq_strict (bs : List Byte) : computeCrc16 bs = crcFoldStrict bs 0xFFFF :=
  (crcFoldStrict_eq bs 0xFFFF).symm

/-- The accumulator's CRC after one more byte (R104). -/
theorem crcFold_append (c : Half) (bs cs : List Byte) :
    crcFold c (bs ++ cs) = crcFold (crcFold c bs) cs := List.foldl_append ..

end Sys2Proof.Machine
end

