-- ==== Sys2Proof/Laws/Decode.lean ====
section
/-! SUPPORT. What the decoder answers, field by field: the one lemma about `decode` that later proofs cite. -/

namespace Sys2Proof

/-- The opcode field of a word made from its fields (R71). -/
@[simp] theorem opField_mkWord (op imm : Byte) : Machine.opField (mkWord op imm) = op :=
  BitVec.extractLsb'_append_eq_left

/-- The immediate of a word made from its fields (R71). -/
@[simp] theorem imm8Field_mkWord (op imm : Byte) : Machine.imm8Field (mkWord op imm) = imm :=
  BitVec.extractLsb'_append_eq_right

/-- A word is made of its two fields (R71). -/
theorem mkWord_fields (w : Half) : mkWord (Machine.opField w) (Machine.imm8Field w) = w := by
  apply BitVec.eq_of_toNat_eq
  have hlow : (Machine.imm8Field w).toNat < 2 ^ 8 := (Machine.imm8Field w).isLt
  rw [mkWord, BitVec.toNat_append, ← Nat.shiftLeft_add_eq_or_of_lt hlow, Nat.shiftLeft_eq,
    Machine.opField, Machine.imm8Field, BitVec.extractLsb'_toNat, BitVec.extractLsb'_toNat,
    Nat.shiftRight_eq_div_pow, Nat.shiftRight_eq_div_pow]
  have := w.isLt
  omega

/-- A word as a number: the opcode above the immediate (R71). -/
theorem mkWord_toNat (op imm : Byte) : (mkWord op imm).toNat = op.toNat * 256 + imm.toNat := by
  rw [mkWord, BitVec.toNat_append, ← Nat.shiftLeft_add_eq_or_of_lt imm.isLt, Nat.shiftLeft_eq]

/-- Two words made from fields are equal when their fields are. -/
theorem mkWord_inj {op imm op' imm' : Byte} : mkWord op imm = mkWord op' imm' ↔ op = op' ∧ imm = imm' :=
  ⟨fun h => ⟨by simpa using congrArg Machine.opField h, by simpa using congrArg Machine.imm8Field h⟩,
    fun h => by rw [h.1, h.2]⟩

/-- A row whose mask covers the whole word (R73). -/
theorem rowMatches_full (r : OpcodeRow) (op imm : Byte) (o : Byte) (hm : r.mask = 0xFFFF#16)
    (hp : r.pattern = mkWord o 0) : rowMatches r (mkWord op imm) = decide (op = o ∧ imm = 0) := by
  have h : mkWord op imm &&& 0xFFFF#16 = mkWord op imm := BitVec.and_allOnes
  simp only [rowMatches, hm, hp, h, Bool.beq_eq_decide_eq, mkWord_inj]

/-- A row whose mask covers the opcode alone (R73). -/
theorem rowMatches_op (r : OpcodeRow) (op imm : Byte) (o : Byte) (hm : r.mask = 0xFF00#16)
    (hp : r.pattern = mkWord o 0) : rowMatches r (mkWord op imm) = decide (op = o) := by
  have h : mkWord op imm &&& 0xFF00#16 = mkWord op 0 := by
    have h1 : (0xFF00#16 : Half) = mkWord 0xFF#8 0x00#8 := by decide
    rw [h1, mkWord, mkWord, BitVec.and_append]
    congr 1
    · exact BitVec.and_allOnes
    · exact BitVec.and_zero
  simp only [rowMatches, hm, hp, h, Bool.beq_eq_decide_eq, mkWord_inj, and_true]

/-- The decoder on every word, by its two fields (R73 to R75). -/
theorem decode_mkWord (op imm : Byte) : decode (mkWord op imm) =
    if op = 0x00 ∧ imm = 0 then .ok .nop
    else if op = 0x01 ∧ imm = 0 then .ok .crcInit
    else if op = 0x02 then .ok (.crcByte imm)
    else if op = 0x10 ∧ imm = 0 then .ok .frameClear
    else if op = 0x11 then .ok (.framePush imm)
    else if op = 0x12 ∧ imm = 0 then .ok .frameDecode
    else if op ∈ [0x00, 0x01, 0x02, 0x10, 0x11, 0x12] then .error (.nonzeroImm8 op imm)
    else .error (.reservedOpcode op) := by
  have hany : opcodeTable.any (rowOpcode · == op) =
      decide (op ∈ [0x00, 0x01, 0x02, 0x10, 0x11, 0x12]) := by
    have e : opcodeTable.map rowOpcode = [0x00, 0x01, 0x02, 0x10, 0x11, 0x12] := by decide
    rw [Bool.eq_iff_iff, List.any_eq_true, decide_eq_true_eq, ← e, List.mem_map]
    simp
  unfold decode
  simp only [opField_mkWord, imm8Field_mkWord, hany]
  simp only [opcodeTable, List.find?_cons, List.find?_nil]
  rw [rowMatches_full _ op imm 0x00 rfl rfl, rowMatches_full _ op imm 0x01 rfl rfl,
    rowMatches_op _ op imm 0x02 rfl rfl, rowMatches_full _ op imm 0x10 rfl rfl,
    rowMatches_op _ op imm 0x11 rfl rfl, rowMatches_full _ op imm 0x12 rfl rfl]
  by_cases h0 : op = 0x00 ∧ imm = 0
  · simp [h0]
  by_cases h1 : op = 0x01 ∧ imm = 0
  · simp [h1]
  by_cases h2 : op = 0x02
  · simp [h2]
  by_cases h3 : op = 0x10 ∧ imm = 0
  · simp [h3]
  by_cases h4 : op = 0x11
  · simp [h4]
  by_cases h5 : op = 0x12 ∧ imm = 0
  · simp [h5]
  simp only [h0, h1, h2, h3, h4, h5, if_false, decide_false, decide_eq_true_eq]

end Sys2Proof
end

