-- ==== Sys2Proof/Laws/Memory.lean ====
section
/-! SUPPORT. The laws of the frame buffer: a read after a write, and the canonical form that every
memory operation keeps. -/

namespace Sys2Proof.Machine

@[simp] theorem Memory.read_nil (i : Nat) : Memory.read [] i = unlistedByte := rfl

@[simp] theorem Memory.read_cons (j : Nat) (b : Byte) (m : Memory) (i : Nat) :
    Memory.read ((j, b) :: m) i = if i = j then b else Memory.read m i := rfl

/-- The canonical form of a non-empty list, as a conjunction. -/
theorem Memory.wfAbove_cons (lo : Option Nat) (j : Nat) (b : Byte) (m : Memory) :
    Memory.wfAbove lo ((j, b) :: m) = true ↔
      (∀ l, lo = some l → l < j) ∧ j < Config.fbCap ∧ b ≠ unlistedByte ∧
        Memory.wfAbove (some j) m = true := by
  cases lo <;> simp [Memory.wfAbove, and_assoc]

/-- A lower bound may be lowered. -/
theorem Memory.wfAbove_mono {l l' : Nat} {m : Memory} (h : l' ≤ l)
    (hm : Memory.wfAbove (some l) m = true) : Memory.wfAbove (some l') m = true := by
  cases m with
  | nil => rfl
  | cons c m =>
    obtain ⟨j, b⟩ := c
    rw [Memory.wfAbove_cons] at hm ⊢
    refine ⟨fun k hk => ?_, hm.2⟩
    have := hm.1 l rfl
    have : l' = k := by simpa using hk
    omega

/-- A bound may be dropped. -/
theorem Memory.wf_of_wfAbove {lo : Option Nat} {m : Memory} (hm : Memory.wfAbove lo m = true) :
    Memory.wf m = true := by
  cases m with
  | nil => rfl
  | cons c m =>
    obtain ⟨j, b⟩ := c
    rw [Memory.wf, Memory.wfAbove_cons]
    exact ⟨by simp, ((Memory.wfAbove_cons lo j b m).mp hm).2⟩

/-- Nothing is listed at or below the bound. -/
theorem Memory.read_of_wfAbove {l i : Nat} {m : Memory} (hm : Memory.wfAbove (some l) m = true)
    (hi : i ≤ l) : m.read i = unlistedByte := by
  induction m generalizing l with
  | nil => rfl
  | cons c m ih =>
    obtain ⟨j, b⟩ := c
    rw [Memory.wfAbove_cons] at hm
    have hlj := hm.1 l rfl
    rw [Memory.read_cons, if_neg (by omega)]
    exact ih hm.2.2.2 (by omega)

/-- A write leaves every other index as it was, in any list. -/
theorem Memory.read_write_other (m : Memory) {i k : Nat} (b : Byte) (h : k ≠ i) :
    (m.write i b).read k = m.read k := by
  induction m with
  | nil => by_cases hb : b = unlistedByte <;> simp [Memory.write, hb, h]
  | cons c m ih =>
    obtain ⟨j, c⟩ := c
    rcases lt_trichotomy i j with hij | rfl | hij
    · by_cases hb : b = unlistedByte <;> simp [Memory.write, hij, hb, h]
    · by_cases hb : b = unlistedByte <;> simp [Memory.write, hb, h]
    · have h1 : ¬ i < j := by omega
      have h2 : i ≠ j := by omega
      simp [Memory.write, h1, h2, ih]

/-- A read after a write to the same index gives the byte written, above any bound the index keeps. -/
theorem Memory.read_write_sameAbove (lo : Option Nat) (m : Memory) (i : Nat) (b : Byte)
    (hm : Memory.wfAbove lo m = true) : (m.write i b).read i = b := by
  induction m generalizing lo with
  | nil => by_cases hb : b = unlistedByte <;> simp [Memory.write, hb]
  | cons c m ih =>
    obtain ⟨j, c⟩ := c
    rw [Memory.wfAbove_cons] at hm
    rcases lt_trichotomy i j with hij | rfl | hij
    · have h2 : i ≠ j := by omega
      have hr := Memory.read_of_wfAbove hm.2.2.2 (le_of_lt hij)
      by_cases hb : b = unlistedByte <;> simp [Memory.write, hij, hb, h2, hr]
    · have hr := Memory.read_of_wfAbove hm.2.2.2 le_rfl
      by_cases hb : b = unlistedByte <;> simp [Memory.write, hb, hr]
    · have h1 : ¬ i < j := by omega
      have h2 : i ≠ j := by omega
      simp [Memory.write, h1, h2, ih _ hm.2.2.2]

/-- A read after a write to the same index gives the byte written. -/
theorem Memory.read_write_same (m : Memory) (i : Nat) (b : Byte) (hm : Memory.wf m = true) :
    (m.write i b).read i = b := Memory.read_write_sameAbove none m i b hm

/-- A write inside the buffer keeps the canonical form, above any bound the index keeps. -/
theorem Memory.write_wfAbove (lo : Option Nat) (m : Memory) (i : Nat) (b : Byte)
    (hm : Memory.wfAbove lo m = true) (hi : i < Config.fbCap) (hlo : ∀ l, lo = some l → l < i) :
    Memory.wfAbove lo (m.write i b) = true := by
  induction m generalizing lo with
  | nil =>
    by_cases hb : b = unlistedByte
    · simp [Memory.write, hb, Memory.wfAbove]
    · simp only [Memory.write, hb, if_false, Memory.wfAbove_cons]
      exact ⟨hlo, hi, hb, rfl⟩
  | cons c m ih =>
    obtain ⟨j, c⟩ := c
    have hm' := (Memory.wfAbove_cons lo j c m).mp hm
    rcases lt_trichotomy i j with hij | rfl | hij
    · by_cases hb : b = unlistedByte
      · simpa [Memory.write, hij, hb] using hm
      · simp only [Memory.write, hij, hb, if_true, if_false]
        rw [Memory.wfAbove_cons, Memory.wfAbove_cons]
        exact ⟨hlo, hi, hb, by simpa using hij, hm'.2⟩
    · by_cases hb : b = unlistedByte
      · simp only [Memory.write, lt_irrefl, hb, if_true, if_false]
        cases lo with
        | none => exact Memory.wf_of_wfAbove hm'.2.2.2
        | some l => exact Memory.wfAbove_mono (le_of_lt (hlo l rfl)) hm'.2.2.2
      · simp only [Memory.write, lt_irrefl, hb, if_true, if_false]
        rw [Memory.wfAbove_cons]
        exact ⟨hlo, hi, hb, hm'.2.2.2⟩
    · have h1 : ¬ i < j := by omega
      have h2 : i ≠ j := by omega
      simp only [Memory.write, h1, h2, if_false]
      rw [Memory.wfAbove_cons]
      exact ⟨hm'.1, hm'.2.1, hm'.2.2.1, ih _ hm'.2.2.2 (by simpa using hij)⟩

/-- A write inside the buffer keeps the canonical form. -/
theorem Memory.write_wf (m : Memory) (i : Nat) (b : Byte) (hm : Memory.wf m = true)
    (hi : i < Config.fbCap) : Memory.wf (m.write i b) = true :=
  Memory.write_wfAbove none m i b hm hi (by simp)

/-- A list of bytes read has the length asked for. -/
@[simp] theorem Memory.readList_length (m : Memory) (i n : Nat) : (m.readList i n).length = n := by
  induction n generalizing i with
  | zero => rfl
  | succ n ih => simp [Memory.readList, ih]

/-- The k-th byte of a list read is the byte at its index. -/
theorem Memory.readList_getElem? (m : Memory) (i n k : Nat) (h : k < n) :
    (m.readList i n)[k]? = some (m.read (i + k)) := by
  induction n generalizing i k with
  | zero => omega
  | succ n ih =>
    cases k with
    | zero => rfl
    | succ k =>
      simp only [Memory.readList, List.getElem?_cons_succ]
      rw [ih (i + 1) k (by omega)]
      congr 2
      omega

/-- A list read depends on the bytes of its range alone. -/
theorem Memory.readList_congr {m m' : Memory} {i n : Nat}
    (h : ∀ k, i ≤ k → k < i + n → m'.read k = m.read k) : m'.readList i n = m.readList i n := by
  induction n generalizing i with
  | zero => rfl
  | succ n ih =>
    simp only [Memory.readList]
    rw [h i (by omega) (by omega), ih fun k h1 h2 => h k (by omega) (by omega)]

end Sys2Proof.Machine
end

