-- ==== Sys2Proof/Laws/State.lean ====
section
/-! SUPPORT. What each field of State is after each named update: true by rfl, for simp. -/

namespace Sys2Proof.Machine

variable (s : State)

@[simp] theorem State.setCrc_crc (c : Half) :
    (s.setCrc c).crc = c := rfl
@[simp] theorem State.setCrc_fb (c : Half) :
    (s.setCrc c).fb = s.fb := rfl
@[simp] theorem State.setCrc_flen (c : Half) :
    (s.setCrc c).flen = s.flen := rfl
@[simp] theorem State.setCrc_result (c : Half) :
    (s.setCrc c).result = s.result := rfl
@[simp] theorem State.setCrc_illegal (c : Half) :
    (s.setCrc c).illegal = s.illegal := rfl
@[simp] theorem State.setCrc_crcExp (c : Half) :
    (s.setCrc c).crcExp = s.crcExp := rfl
@[simp] theorem State.setCrc_crcRcv (c : Half) :
    (s.setCrc c).crcRcv = s.crcRcv := rfl
@[simp] theorem State.setCrc_reading (c : Half) :
    (s.setCrc c).reading = s.reading := rfl
@[simp] theorem State.setCrc_offsetBias (c : Half) :
    (s.setCrc c).offsetBias = s.offsetBias := rfl
@[simp] theorem State.setCrc_inputs (c : Half) :
    (s.setCrc c).inputs = s.inputs := rfl
@[simp] theorem State.setCrc_replies (c : Half) :
    (s.setCrc c).replies = s.replies := rfl

@[simp] theorem State.setDiagnostics_crc (exp rcv : Half) :
    (s.setDiagnostics exp rcv).crc = s.crc := rfl
@[simp] theorem State.setDiagnostics_fb (exp rcv : Half) :
    (s.setDiagnostics exp rcv).fb = s.fb := rfl
@[simp] theorem State.setDiagnostics_flen (exp rcv : Half) :
    (s.setDiagnostics exp rcv).flen = s.flen := rfl
@[simp] theorem State.setDiagnostics_result (exp rcv : Half) :
    (s.setDiagnostics exp rcv).result = s.result := rfl
@[simp] theorem State.setDiagnostics_illegal (exp rcv : Half) :
    (s.setDiagnostics exp rcv).illegal = s.illegal := rfl
@[simp] theorem State.setDiagnostics_crcExp (exp rcv : Half) :
    (s.setDiagnostics exp rcv).crcExp = exp := rfl
@[simp] theorem State.setDiagnostics_crcRcv (exp rcv : Half) :
    (s.setDiagnostics exp rcv).crcRcv = rcv := rfl
@[simp] theorem State.setDiagnostics_reading (exp rcv : Half) :
    (s.setDiagnostics exp rcv).reading = s.reading := rfl
@[simp] theorem State.setDiagnostics_offsetBias (exp rcv : Half) :
    (s.setDiagnostics exp rcv).offsetBias = s.offsetBias := rfl
@[simp] theorem State.setDiagnostics_inputs (exp rcv : Half) :
    (s.setDiagnostics exp rcv).inputs = s.inputs := rfl
@[simp] theorem State.setDiagnostics_replies (exp rcv : Half) :
    (s.setDiagnostics exp rcv).replies = s.replies := rfl

@[simp] theorem State.commitReading_crc (rd : Reading) :
    (s.commitReading rd).crc = s.crc := rfl
@[simp] theorem State.commitReading_fb (rd : Reading) :
    (s.commitReading rd).fb = s.fb := rfl
@[simp] theorem State.commitReading_flen (rd : Reading) :
    (s.commitReading rd).flen = s.flen := rfl
@[simp] theorem State.commitReading_result (rd : Reading) :
    (s.commitReading rd).result = resultOk := rfl
@[simp] theorem State.commitReading_illegal (rd : Reading) :
    (s.commitReading rd).illegal = s.illegal := rfl
@[simp] theorem State.commitReading_crcExp (rd : Reading) :
    (s.commitReading rd).crcExp = s.crcExp := rfl
@[simp] theorem State.commitReading_crcRcv (rd : Reading) :
    (s.commitReading rd).crcRcv = s.crcRcv := rfl
@[simp] theorem State.commitReading_reading (rd : Reading) :
    (s.commitReading rd).reading = rd := rfl
@[simp] theorem State.commitReading_offsetBias (rd : Reading) :
    (s.commitReading rd).offsetBias = s.offsetBias := rfl
@[simp] theorem State.commitReading_inputs (rd : Reading) :
    (s.commitReading rd).inputs = s.inputs := rfl
@[simp] theorem State.commitReading_replies (rd : Reading) :
    (s.commitReading rd).replies = s.replies := rfl

@[simp] theorem State.raiseIllegalCommand_crc :
    (s.raiseIllegalCommand).crc = s.crc := rfl
@[simp] theorem State.raiseIllegalCommand_fb :
    (s.raiseIllegalCommand).fb = s.fb := rfl
@[simp] theorem State.raiseIllegalCommand_flen :
    (s.raiseIllegalCommand).flen = s.flen := rfl
@[simp] theorem State.raiseIllegalCommand_result :
    (s.raiseIllegalCommand).result = s.result := rfl
@[simp] theorem State.raiseIllegalCommand_illegal :
    (s.raiseIllegalCommand).illegal = true := rfl
@[simp] theorem State.raiseIllegalCommand_crcExp :
    (s.raiseIllegalCommand).crcExp = s.crcExp := rfl
@[simp] theorem State.raiseIllegalCommand_crcRcv :
    (s.raiseIllegalCommand).crcRcv = s.crcRcv := rfl
@[simp] theorem State.raiseIllegalCommand_reading :
    (s.raiseIllegalCommand).reading = s.reading := rfl
@[simp] theorem State.raiseIllegalCommand_offsetBias :
    (s.raiseIllegalCommand).offsetBias = s.offsetBias := rfl
@[simp] theorem State.raiseIllegalCommand_inputs :
    (s.raiseIllegalCommand).inputs = s.inputs := rfl
@[simp] theorem State.raiseIllegalCommand_replies :
    (s.raiseIllegalCommand).replies = s.replies := rfl

@[simp] theorem State.raiseDecodeError_crc (code : BitVec 3) :
    (s.raiseDecodeError code).crc = s.crc := rfl
@[simp] theorem State.raiseDecodeError_fb (code : BitVec 3) :
    (s.raiseDecodeError code).fb = s.fb := rfl
@[simp] theorem State.raiseDecodeError_flen (code : BitVec 3) :
    (s.raiseDecodeError code).flen = s.flen := rfl
@[simp] theorem State.raiseDecodeError_result (code : BitVec 3) :
    (s.raiseDecodeError code).result = code := rfl
@[simp] theorem State.raiseDecodeError_illegal (code : BitVec 3) :
    (s.raiseDecodeError code).illegal = s.illegal := rfl
@[simp] theorem State.raiseDecodeError_crcExp (code : BitVec 3) :
    (s.raiseDecodeError code).crcExp = if code = errLength ∨ code = errHeader then 0 else s.crcExp := rfl
@[simp] theorem State.raiseDecodeError_crcRcv (code : BitVec 3) :
    (s.raiseDecodeError code).crcRcv = if code = errLength ∨ code = errHeader then 0 else s.crcRcv := rfl
@[simp] theorem State.raiseDecodeError_reading (code : BitVec 3) :
    (s.raiseDecodeError code).reading = Reading.zero := rfl
@[simp] theorem State.raiseDecodeError_offsetBias (code : BitVec 3) :
    (s.raiseDecodeError code).offsetBias = s.offsetBias := rfl
@[simp] theorem State.raiseDecodeError_inputs (code : BitVec 3) :
    (s.raiseDecodeError code).inputs = s.inputs := rfl
@[simp] theorem State.raiseDecodeError_replies (code : BitVec 3) :
    (s.raiseDecodeError code).replies = s.replies := rfl

@[simp] theorem State.clearFrame_crc :
    (s.clearFrame).crc = s.crc := rfl
@[simp] theorem State.clearFrame_fb :
    (s.clearFrame).fb = s.fb := rfl
@[simp] theorem State.clearFrame_flen :
    (s.clearFrame).flen = 0 := rfl
@[simp] theorem State.clearFrame_result :
    (s.clearFrame).result = resultNone := rfl
@[simp] theorem State.clearFrame_illegal :
    (s.clearFrame).illegal = s.illegal := rfl
@[simp] theorem State.clearFrame_crcExp :
    (s.clearFrame).crcExp = 0 := rfl
@[simp] theorem State.clearFrame_crcRcv :
    (s.clearFrame).crcRcv = 0 := rfl
@[simp] theorem State.clearFrame_reading :
    (s.clearFrame).reading = Reading.zero := rfl
@[simp] theorem State.clearFrame_offsetBias :
    (s.clearFrame).offsetBias = s.offsetBias := rfl
@[simp] theorem State.clearFrame_inputs :
    (s.clearFrame).inputs = s.inputs := rfl
@[simp] theorem State.clearFrame_replies :
    (s.clearFrame).replies = s.replies := rfl

@[simp] theorem State.pushByte_crc (b : Byte) :
    (s.pushByte b).crc = s.crc := rfl
@[simp] theorem State.pushByte_fb (b : Byte) :
    (s.pushByte b).fb = if s.flen.toNat < Config.fbCap then s.fb.write s.flen.toNat b else s.fb := rfl
@[simp] theorem State.pushByte_flen (b : Byte) :
    (s.pushByte b).flen = if s.flen.toNat < 0xFFFF then s.flen + 1 else s.flen := rfl
@[simp] theorem State.pushByte_result (b : Byte) :
    (s.pushByte b).result = s.result := rfl
@[simp] theorem State.pushByte_illegal (b : Byte) :
    (s.pushByte b).illegal = s.illegal := rfl
@[simp] theorem State.pushByte_crcExp (b : Byte) :
    (s.pushByte b).crcExp = s.crcExp := rfl
@[simp] theorem State.pushByte_crcRcv (b : Byte) :
    (s.pushByte b).crcRcv = s.crcRcv := rfl
@[simp] theorem State.pushByte_reading (b : Byte) :
    (s.pushByte b).reading = s.reading := rfl
@[simp] theorem State.pushByte_offsetBias (b : Byte) :
    (s.pushByte b).offsetBias = s.offsetBias := rfl
@[simp] theorem State.pushByte_inputs (b : Byte) :
    (s.pushByte b).inputs = s.inputs := rfl
@[simp] theorem State.pushByte_replies (b : Byte) :
    (s.pushByte b).replies = s.replies := rfl

@[simp] theorem State.hostReset_crc :
    (s.hostReset).crc = 0xFFFF := rfl
@[simp] theorem State.hostReset_fb :
    (s.hostReset).fb = [] := rfl
@[simp] theorem State.hostReset_flen :
    (s.hostReset).flen = 0 := rfl
@[simp] theorem State.hostReset_result :
    (s.hostReset).result = 0 := rfl
@[simp] theorem State.hostReset_illegal :
    (s.hostReset).illegal = false := rfl
@[simp] theorem State.hostReset_crcExp :
    (s.hostReset).crcExp = 0 := rfl
@[simp] theorem State.hostReset_crcRcv :
    (s.hostReset).crcRcv = 0 := rfl
@[simp] theorem State.hostReset_reading :
    (s.hostReset).reading = Reading.zero := rfl
@[simp] theorem State.hostReset_offsetBias :
    (s.hostReset).offsetBias = s.offsetBias := rfl
@[simp] theorem State.hostReset_inputs :
    (s.hostReset).inputs = s.inputs := rfl
@[simp] theorem State.hostReset_replies :
    (s.hostReset).replies = s.replies := rfl

@[simp] theorem State.reply_crc (v : Word) :
    (s.reply v).crc = s.crc := rfl
@[simp] theorem State.reply_fb (v : Word) :
    (s.reply v).fb = s.fb := rfl
@[simp] theorem State.reply_flen (v : Word) :
    (s.reply v).flen = s.flen := rfl
@[simp] theorem State.reply_result (v : Word) :
    (s.reply v).result = s.result := rfl
@[simp] theorem State.reply_illegal (v : Word) :
    (s.reply v).illegal = s.illegal := rfl
@[simp] theorem State.reply_crcExp (v : Word) :
    (s.reply v).crcExp = s.crcExp := rfl
@[simp] theorem State.reply_crcRcv (v : Word) :
    (s.reply v).crcRcv = s.crcRcv := rfl
@[simp] theorem State.reply_reading (v : Word) :
    (s.reply v).reading = s.reading := rfl
@[simp] theorem State.reply_offsetBias (v : Word) :
    (s.reply v).offsetBias = s.offsetBias := rfl
@[simp] theorem State.reply_inputs (v : Word) :
    (s.reply v).inputs = s.inputs := rfl
@[simp] theorem State.reply_replies (v : Word) :
    (s.reply v).replies = v :: s.replies := rfl

@[simp] theorem State.hostRead_crc (a : Byte) :
    (s.hostRead a).crc = s.crc := rfl
@[simp] theorem State.hostRead_fb (a : Byte) :
    (s.hostRead a).fb = s.fb := rfl
@[simp] theorem State.hostRead_flen (a : Byte) :
    (s.hostRead a).flen = s.flen := rfl
@[simp] theorem State.hostRead_result (a : Byte) :
    (s.hostRead a).result = s.result := rfl
@[simp] theorem State.hostRead_illegal (a : Byte) :
    (s.hostRead a).illegal = s.illegal := rfl
@[simp] theorem State.hostRead_crcExp (a : Byte) :
    (s.hostRead a).crcExp = s.crcExp := rfl
@[simp] theorem State.hostRead_crcRcv (a : Byte) :
    (s.hostRead a).crcRcv = s.crcRcv := rfl
@[simp] theorem State.hostRead_reading (a : Byte) :
    (s.hostRead a).reading = s.reading := rfl
@[simp] theorem State.hostRead_offsetBias (a : Byte) :
    (s.hostRead a).offsetBias = s.offsetBias := rfl
@[simp] theorem State.hostRead_inputs (a : Byte) :
    (s.hostRead a).inputs = s.inputs := rfl
@[simp] theorem State.hostRead_replies (a : Byte) :
    (s.hostRead a).replies = s.readPort a :: s.replies := rfl

@[simp] theorem State.takeInput_crc (rest : List Interaction) :
    (s.takeInput rest).crc = s.crc := rfl
@[simp] theorem State.takeInput_fb (rest : List Interaction) :
    (s.takeInput rest).fb = s.fb := rfl
@[simp] theorem State.takeInput_flen (rest : List Interaction) :
    (s.takeInput rest).flen = s.flen := rfl
@[simp] theorem State.takeInput_result (rest : List Interaction) :
    (s.takeInput rest).result = s.result := rfl
@[simp] theorem State.takeInput_illegal (rest : List Interaction) :
    (s.takeInput rest).illegal = s.illegal := rfl
@[simp] theorem State.takeInput_crcExp (rest : List Interaction) :
    (s.takeInput rest).crcExp = s.crcExp := rfl
@[simp] theorem State.takeInput_crcRcv (rest : List Interaction) :
    (s.takeInput rest).crcRcv = s.crcRcv := rfl
@[simp] theorem State.takeInput_reading (rest : List Interaction) :
    (s.takeInput rest).reading = s.reading := rfl
@[simp] theorem State.takeInput_offsetBias (rest : List Interaction) :
    (s.takeInput rest).offsetBias = s.offsetBias := rfl
@[simp] theorem State.takeInput_inputs (rest : List Interaction) :
    (s.takeInput rest).inputs = rest := rfl
@[simp] theorem State.takeInput_replies (rest : List Interaction) :
    (s.takeInput rest).replies = s.replies := rfl

@[simp] theorem State.issueNext_crc (w : Half) :
    (s.issueNext w).crc = s.crc := rfl
@[simp] theorem State.issueNext_fb (w : Half) :
    (s.issueNext w).fb = s.fb := rfl
@[simp] theorem State.issueNext_flen (w : Half) :
    (s.issueNext w).flen = s.flen := rfl
@[simp] theorem State.issueNext_result (w : Half) :
    (s.issueNext w).result = s.result := rfl
@[simp] theorem State.issueNext_illegal (w : Half) :
    (s.issueNext w).illegal = s.illegal := rfl
@[simp] theorem State.issueNext_crcExp (w : Half) :
    (s.issueNext w).crcExp = s.crcExp := rfl
@[simp] theorem State.issueNext_crcRcv (w : Half) :
    (s.issueNext w).crcRcv = s.crcRcv := rfl
@[simp] theorem State.issueNext_reading (w : Half) :
    (s.issueNext w).reading = s.reading := rfl
@[simp] theorem State.issueNext_offsetBias (w : Half) :
    (s.issueNext w).offsetBias = s.offsetBias := rfl
@[simp] theorem State.issueNext_inputs (w : Half) :
    (s.issueNext w).inputs = .command w :: s.inputs := rfl
@[simp] theorem State.issueNext_replies (w : Half) :
    (s.issueNext w).replies = s.replies := rfl

end Sys2Proof.Machine
end

