-- ==== Sys2Proof/Laws/Ops.lean ====
section
/-! SUPPORT. One lemma for each shared operation that says everything it can do: the memory after a push,
the verdicts of a decode, what the decoder reads, and what a step can be. -/

namespace Sys2Proof.Machine

/-- `resultOk` and the codes as numerals, for simp. -/
theorem result_codes : resultNone = 0#3 ∧ resultOk = 1#3 ∧ errLength = 2#3 ∧ errHeader = 3#3 ∧
    errIntegrity = 4#3 := ⟨rfl, rfl, rfl, rfl, rfl⟩

/-- A push keeps the canonical form of the buffer. -/
theorem State.pushByte_wf (s : State) (b : Byte) (h : Memory.wf s.fb = true) :
    Memory.wf (s.pushByte b).fb = true := by
  rw [State.pushByte_fb]
  split
  · next hlt => exact Memory.write_wf _ _ _ h hlt
  · exact h

/-- Every byte of the buffer after a push: the pushed one at `FLEN` below 153, each other as it was. -/
theorem State.pushByte_read (s : State) (b : Byte) (k : Nat) (h : Memory.wf s.fb = true) :
    (s.pushByte b).fb.read k =
      if k = s.flen.toNat ∧ s.flen.toNat < Config.fbCap then b else s.fb.read k := by
  rw [State.pushByte_fb]
  by_cases hlt : s.flen.toNat < Config.fbCap
  · by_cases hk : k = s.flen.toNat
    · simp only [hlt, hk, and_self, if_true]
      exact Memory.read_write_same _ _ _ h
    · simp only [hlt, hk, false_and, if_true, if_false]
      exact Memory.read_write_other _ _ hk
  · simp [hlt]

/-- The count after a push, as a number: one more, and at most 0xFFFF. -/
theorem State.pushByte_flen_toNat (s : State) (b : Byte) :
    (s.pushByte b).flen.toNat = min (s.flen.toNat + 1) 0xFFFF := by
  rw [State.pushByte_flen]
  have hs := s.flen.isLt
  split
  · next h =>
    have h1 : (s.flen + 1).toNat = s.flen.toNat + 1 := by
      rw [BitVec.toNat_add]
      have : (1 : Half).toNat = 1 := rfl
      rw [this]
      omega
    omega
  · omega

/-- FRAME.DECODE as an equation: it answers the state that `decodeWith` gives. -/
theorem execFrameDecode_eq (s : State) :
    execFrameDecode s = .next (s.decodeWith (computeCrc16 (payloadOf s.fb)) (receivedCrc s.fb)) := rfl

/-- Everything FRAME.DECODE can do: one of four verdicts, in the order of R206. -/
theorem State.decodeWith_cases (s : State) (exp rcv : Half) :
    (s.flen.toNat ≠ Config.frameLen ∧ s.decodeWith exp rcv = s.raiseDecodeError errLength) ∨
    (s.flen.toNat = Config.frameLen ∧ headerOk s.fb = false ∧
      s.decodeWith exp rcv = s.raiseDecodeError errHeader) ∨
    (s.flen.toNat = Config.frameLen ∧ headerOk s.fb = true ∧ exp ≠ rcv ∧
      s.decodeWith exp rcv = (s.setDiagnostics exp rcv).raiseDecodeError errIntegrity) ∨
    (s.flen.toNat = Config.frameLen ∧ headerOk s.fb = true ∧ exp = rcv ∧
      s.decodeWith exp rcv =
        (s.setDiagnostics exp rcv).commitReading (decodeFields s.fb s.offsetBias)) := by
  unfold State.decodeWith
  by_cases h1 : s.flen.toNat = Config.frameLen
  · cases h2 : headerOk s.fb with
    | false => exact .inr (.inl ⟨h1, rfl, by simp [h1]⟩)
    | true =>
      by_cases h3 : exp = rcv
      · exact .inr (.inr (.inr ⟨h1, rfl, h3, by simp [h1, h3]⟩))
      · exact .inr (.inr (.inl ⟨h1, rfl, h3, by simp [h1, h3]⟩))
  · exact .inl ⟨h1, by simp [h1]⟩

/-- The failure commit of the length check, as a record (R136). -/
theorem State.raise_errLength (s : State) : s.raiseDecodeError errLength =
    { s with result := 2, reading := Reading.zero, crcExp := 0, crcRcv := 0 } := rfl

/-- The failure commit of the header check, as a record (R136). -/
theorem State.raise_errHeader (s : State) : s.raiseDecodeError errHeader =
    { s with result := 3, reading := Reading.zero, crcExp := 0, crcRcv := 0 } := rfl

/-- The failure commit of the integrity check, as a record (R133, R136). Stated for any two CRCs: cite it
rather than let `rfl` see `computeCrc16 (payloadOf _)`, which the kernel would unfold. -/
theorem State.raise_errIntegrity (s : State) (exp rcv : Half) :
    (s.setDiagnostics exp rcv).raiseDecodeError errIntegrity =
      { s with result := 4, reading := Reading.zero, crcExp := exp, crcRcv := rcv } := rfl

/-- The success commit, as a record (R133, R135). -/
theorem State.commit_success (s : State) (exp rcv : Half) (rd : Reading) :
    (s.setDiagnostics exp rcv).commitReading rd =
      { s with result := 1, reading := rd, crcExp := exp, crcRcv := rcv } := rfl

/-- The frame of FRAME.DECODE: only `RESULT`, the reading registers and the two diagnostics can change. -/
theorem State.decodeWith_frame (s : State) (exp rcv : Half) :
    s.decodeWith exp rcv = { s with
      result := (s.decodeWith exp rcv).result
      reading := (s.decodeWith exp rcv).reading
      crcExp := (s.decodeWith exp rcv).crcExp
      crcRcv := (s.decodeWith exp rcv).crcRcv } := by
  rcases s.decodeWith_cases exp rcv with h | h | h | h
  · rw [h.2]; rfl
  · rw [h.2.2]; rfl
  · rw [h.2.2.2]; rfl
  · rw [h.2.2.2]; rfl

@[simp] theorem State.decodeWith_crc (s : State) (exp rcv : Half) :
    (s.decodeWith exp rcv).crc = s.crc := by rw [s.decodeWith_frame]

@[simp] theorem State.decodeWith_fb (s : State) (exp rcv : Half) :
    (s.decodeWith exp rcv).fb = s.fb := by rw [s.decodeWith_frame]

@[simp] theorem State.decodeWith_flen (s : State) (exp rcv : Half) :
    (s.decodeWith exp rcv).flen = s.flen := by rw [s.decodeWith_frame]

@[simp] theorem State.decodeWith_illegal (s : State) (exp rcv : Half) :
    (s.decodeWith exp rcv).illegal = s.illegal := by rw [s.decodeWith_frame]

@[simp] theorem State.decodeWith_offsetBias (s : State) (exp rcv : Half) :
    (s.decodeWith exp rcv).offsetBias = s.offsetBias := by rw [s.decodeWith_frame]

@[simp] theorem State.decodeWith_inputs (s : State) (exp rcv : Half) :
    (s.decodeWith exp rcv).inputs = s.inputs := by rw [s.decodeWith_frame]

@[simp] theorem State.decodeWith_replies (s : State) (exp rcv : Half) :
    (s.decodeWith exp rcv).replies = s.replies := by rw [s.decodeWith_frame]

/-- The header check, byte by byte (R132). -/
theorem headerOk_iff (m : Memory) : headerOk m = true ↔ m.read 0 = 0xAA#8 ∧ m.read 1 = 0x55#8 := by
  simp [headerOk]

/-- The sentinel comparator as an equation (R160). -/
theorem isSentinel_iff (v : Half) : isSentinel v = true ↔ v = 0xFFFF#16 := by
  simp [isSentinel]

/-- The power of a present channel does not wrap (R175). -/
theorem rawPower_toNat (v i : Half) (h : v ≠ 0xFFFF#16) : (rawPower v i).toNat = v.toNat * i.toNat := by
  have hv := v.isLt
  have hi := i.isLt
  have hne : v.toNat ≠ 65535 := fun hc => h (BitVec.eq_of_toNat_eq (by simpa using hc))
  have hv' : v.toNat ≤ 65534 := by omega
  have hi' : i.toNat ≤ 65535 := by omega
  have hb : v.toNat * i.toNat ≤ 65534 * 65535 := Nat.mul_le_mul hv' hi'
  rw [rawPower, BitVec.toNat_mul, BitVec.toNat_setWidth, BitVec.toNat_setWidth,
    Nat.mod_eq_of_lt (a := v.toNat) (by omega), Nat.mod_eq_of_lt (a := i.toNat) (by omega),
    Nat.mod_eq_of_lt (by omega)]

/-- The power register of a channel as a number (R176, R178). -/
theorem channelPower_toNat (v i : Half) :
    (channelPower v i).toNat = if v = 0xFFFF#16 then 0 else v.toNat * i.toNat := by
  unfold channelPower
  by_cases h : v = 0xFFFF#16
  · simp [h, isSentinel]
  · have h' : isSentinel v = false := by simp [isSentinel, h]
    simp [h', h, rawPower_toNat v i h]

/-- A u16 of two bytes as a number (R150, R152). -/
theorem join16_toNat (hi lo : Byte) : (join16 hi lo).toNat = hi.toNat * 256 + lo.toNat := by
  have h := lo.isLt
  rw [join16, BitVec.toNat_append, ← Nat.shiftLeft_add_eq_or_of_lt h, Nat.shiftLeft_eq]

/-- A step takes the front of the input list and performs it, or holds the state (R62, R216). -/
theorem step_cases (s : State) :
    (s.inputs = [] ∧ step s = .next s) ∨
    ∃ x rest, s.inputs = x :: rest ∧ step s = perform x (s.takeInput rest) := by
  unfold step stepInput
  cases h : s.inputs with
  | nil => exact .inl ⟨rfl, rfl⟩
  | cons x rest => exact .inr ⟨x, rest, rfl, rfl⟩

/-- Everything an interaction can do. -/
theorem perform_cases (x : Interaction) (s : State) :
    (∃ w i, x = .command w ∧ decode w = .ok i ∧ perform x s = exec i s) ∨
    (∃ w e, x = .command w ∧ decode w = .error e ∧ perform x s = .next s.raiseIllegalCommand) ∨
    (∃ a, x = .read a ∧ perform x s = .next (s.hostRead a)) ∨
    (x = .reset ∧ perform x s = .next s.hostReset) := by
  cases x with
  | command w =>
    cases h : decode w with
    | ok i => exact .inl ⟨w, i, rfl, h, by simp [perform, issue, h]⟩
    | error e => exact .inr (.inl ⟨w, e, rfl, h, by simp [perform, issue, h]⟩)
  | read a => exact .inr (.inr (.inl ⟨a, rfl, rfl⟩))
  | reset => exact .inr (.inr (.inr ⟨rfl, rfl⟩))

/-- The empty sequence of interactions. -/
@[simp] theorem performAll_nil (s : State) : performAll [] s = .next s := rfl

/-- A sequence whose first interaction answers a next state. -/
theorem performAll_cons_next {x : Interaction} {xs : List Interaction} {s t : State}
    (h : perform x s = .next t) : performAll (x :: xs) s = performAll xs t := by
  simp [performAll, h]

end Sys2Proof.Machine
end

