-- ==== Sys2Proof/Laws/PerInstr.lean ====
section
/-! SUPPORT. Per-instruction statements, one lemma a constructor: the word of a command matches exactly one
row of the opcode map (30_encoding.md rule R73). -/

namespace Sys2Proof.Laws.EncodeMatchesOneRow

/-- Exactly one row of the opcode map matches the encoded word (R73). -/
def Statement (i : Instr) : Prop := (opcodeTable.filter (rowMatches · (encode i))).length = 1

theorem nop : Statement .nop := by unfold Statement; decide

theorem crcInit : Statement .crcInit := by unfold Statement; decide

theorem crcByte (b : Byte) : Statement (.crcByte b) := by
  unfold Statement; revert b; decide

theorem frameClear : Statement .frameClear := by unfold Statement; decide

theorem framePush (b : Byte) : Statement (.framePush b) := by
  unfold Statement; revert b; decide

theorem frameDecode : Statement .frameDecode := by unfold Statement; decide

end Sys2Proof.Laws.EncodeMatchesOneRow
end

