-- ==== Sys2Proof/Tests/Slice0.lean ====
section
/-! SUPPORT. Tests. Expected values are the spec's: 95_test_vectors.md is cited by vector, other rules by number.
The theorems named `witness_…` show that the hypotheses of the obligations can be met. -/

namespace Sys2Proof.Tests

open Sys2Proof.Machine

/-! ## Well-formedness: an ill-formed term for each check -/

theorem test_operand_missing : SourceLine.wellFormed ⟨.crcByte, [], none⟩ = false := by decide
theorem test_operand_extra : SourceLine.wellFormed ⟨.nop, [0], none⟩ = false := by decide
theorem test_operand_too_large : SourceLine.wellFormed ⟨.framePush, [256], none⟩ = false := by decide
theorem test_raw_word_too_large : SourceLine.wellFormed ⟨.dotWord, [65536], none⟩ = false := by decide
theorem test_expected_on_command : SourceLine.wellFormed ⟨.nop, [], some 1⟩ = false := by decide
theorem test_expected_too_wide : SourceLine.wellFormed ⟨.rd, [0], some (2 ^ 32)⟩ = false := by decide
theorem test_line_accepted : SourceLine.wellFormed ⟨.rd, [0xFF], some 0xFFFFFFFF⟩ = true := by decide

/-- V-CT-2: the illegal words, refused by the legality check. -/
theorem test_illegal_words_not_legal :
    [0x0001, 0x0101, 0x10FF, 0x1201, 0x0300, 0x0F00, 0x13AA, 0xFFFF].all
      (fun w => !legal (BitVec.ofNat 16 w)) = true := by decide

/-! ## Decoding: words written out from R73 and 95_test_vectors.md -/

theorem test_decode_nop : decode 0b0000000000000000 = .ok .nop := by decide
theorem test_decode_crcInit : decode 0b0000000100000000 = .ok .crcInit := by decide
theorem test_decode_crcByte : decode 0b0000001001111111 = .ok (.crcByte 0x7F) := by decide
theorem test_decode_frameClear : decode 0b0001000000000000 = .ok .frameClear := by decide
theorem test_decode_framePush : decode 0b0001000110101010 = .ok (.framePush 0xAA) := by decide
theorem test_decode_frameDecode : decode 0b0001001000000000 = .ok .frameDecode := by decide
theorem test_decode_reserved : decode 0x13AA = .error (.reservedOpcode 0x13) := by decide
theorem test_decode_nonzero_imm : decode 0x1201 = .error (.nonzeroImm8 0x12 0x01) := by decide
theorem test_decodeTableWord : decodeTableWord 16 0x02C2 = some (.crcByte 0xC2) := by decide
theorem test_decodeTableWord_none : decodeTableWord 16 0x0300 = none := by decide

/-! ## The CRC generator (V-CRC-1 to V-CRC-6) -/

theorem test_crcRound_odd : crcRound 0x01FF = 0xA0FE := by decide
theorem test_crcRound_even : crcRound 0xFF80 = 0x7FC0 := by decide
theorem test_crcByte_7F : crcByte 0xFFFF 0x7F = 0xA0FE := by decide
theorem test_crcByte_80 : crcByte 0x0000 0x80 = 0xA001 := by decide
theorem test_crc_request_frame : computeCrc16 (Config.requestFrame.take 6) = 0xC2D5 := by decide +kernel
theorem test_crc_request_residue : computeCrc16 Config.requestFrame = 0x0000 := by decide +kernel
theorem test_crc_check_string :
    computeCrc16 [0x31, 0x32, 0x33, 0x34, 0x35, 0x36, 0x37, 0x38, 0x39] = 0x4B37 := by decide +kernel
theorem test_crc_zeros : computeCrc16 (List.replicate 149 0x00) = 0x4EFA :=
  (computeCrc16_eq_strict _).trans (by decide +kernel)
theorem test_crc_ones : computeCrc16 (List.replicate 149 0xFF) = 0x7E4E :=
  (computeCrc16_eq_strict _).trans (by decide +kernel)

/-! ## States to test on -/

/-- The state that an outcome holds; the reset state where it holds none. -/
def stateOf (o : Host.Outcome State Fault Refusal) : State :=
  match o with
  | .next s => s
  | .fault _ => State.reset
  | .refused _ => State.reset

/-- The frame of V-EX-7, its bytes that are not 0. -/
def exampleFrame : Memory := [
  (0, 0xAA), (1, 0x55), (3, 0x18), (4, 0x03), (5, 0x0F), (6, 0x0C), (7, 0x1E), (8, 0x2D), (9, 0x08),
  (10, 0xFC), (12, 0x32), (13, 0xFF), (14, 0xFF), (17, 0xFF), (18, 0xFF), (21, 0xFF), (22, 0xFF),
  (39, 0xFF), (40, 0xFF), (41, 0xFF), (42, 0xFF), (43, 0xFF), (44, 0xFF), (59, 0x01), (60, 0xF4),
  (86, 0xFA), (92, 0x78), (94, 0x02), (95, 0x49), (96, 0xF0), (99, 0x03), (100, 0xE8), (151, 0x27),
  (152, 0x28)]

/-- The state with `FLEN = 153` and these bytes in the buffer. -/
def loaded (m : Memory) : State := { State.reset with fb := m, flen := 153 }

/-- What FRAME.DECODE answers, with the payload CRC in the form that the kernel evaluates. -/
def decoded (s : State) : State := s.decodeWith (crcFoldStrict (payloadOf s.fb) 0xFFFF) (receivedCrc s.fb)

/-- `decoded` is FRAME.DECODE's next state. -/
theorem exec_decoded (s : State) : exec .frameDecode s = .next (decoded s) :=
  (execFrameDecode_eq s).trans (by rw [decoded, computeCrc16_eq_strict])

/-- V-EX-7 decoded. -/
def decodedExample : State := decoded (loaded exampleFrame)

/-- The frame of V-FR-12: an all-FF payload. -/
def onesFrame : Memory := [(0, 0xAA), (1, 0x55)] ++
  (List.range 149).map (fun o => (2 + o, 0xFF)) ++ [(151, 0x4E), (152, 0x7E)]

/-! ## The frame decoder (V-EX-7, V-FR) -/

theorem test_decode_ok : (decodedExample.readPort 0x00, decodedExample.readPort 0x05) = (1, 1) := by
  decide +kernel
theorem test_decode_crcs : (decodedExample.readPort 0x03, decodedExample.readPort 0x04) = (0x2827, 0x2827) := by
  decide +kernel
theorem test_decode_timestamp :
    [0x06, 0x07, 0x08, 0x09, 0x0A, 0x0B, 0x0C].map (fun a => decodedExample.readPort (BitVec.ofNat 8 a)) =
      [2024, 24, 3, 15, 12, 30, 45] := by decide +kernel
theorem test_decode_string1 :
    [0x10, 0x11, 0x12, 0x50, 0x90, 0x52].map (fun a => decodedExample.readPort (BitVec.ofNat 8 a)) =
      [2300, 50, 115000, 230, 0, 1150] := by decide +kernel
theorem test_decode_absent :
    [0x14, 0x16, 0x20, 0x23].map (fun a => decodedExample.readPort (BitVec.ofNat 8 a)) =
      [65535, 0, 65535, 0] := by decide +kernel
theorem test_decode_scalars :
    [0x30, 0x31, 0x32, 0x33, 0x34, 0x71, 0x73].map (fun a => decodedExample.readPort (BitVec.ofNat 8 a)) =
      [500, 250, 120, 150000, 1000, 25, 15000] := by decide +kernel

/-- V-FR-14: the same frame with `OFFSET_BIAS = 2`. -/
theorem test_decode_bias_two :
    [0x00, 0x03, 0x05, 0x06, 0x0C, 0x10, 0x11, 0x12, 0x32, 0x33].map
      (fun a => (decoded { loaded exampleFrame with offsetBias := 2 }).readPort (BitVec.ofNat 8 a)) =
      [1, 0x2827, 0x4F, 2015, 252, 50, 65535, 3276750, 2, 1240465408] := by decide +kernel

/-- V-FR-7: bit 0 of P[0] flipped. -/
theorem test_decode_integrity :
    [0x00, 0x03, 0x04, 0x05].map (fun a =>
      (decoded ((loaded exampleFrame).flipBit 2 0)).readPort (BitVec.ofNat 8 a)) =
      [4, 0x79FA, 0x2827, 0] := by decide +kernel

/-- V-FR-5: the header bytes in the wrong order. -/
theorem test_decode_header :
    (decoded (loaded (Memory.write (Memory.write exampleFrame 0 0x55) 1 0xAA))).result = 3 := by
  decide +kernel

/-- V-FR-4: no frame loaded. -/
theorem test_decode_length : (stateOf (exec .frameDecode State.reset)).result = 2 := by decide

/-- V-FR-12. -/
theorem test_decode_all_ones :
    [0x00, 0x05, 0x06, 0x71, 0xB1, 0x33].map (fun a => (decoded (loaded onesFrame)).readPort (BitVec.ofNat 8 a)) =
      [1, 0, 2255, 6553, 5, 0xFFFFFFFF] := by decide +kernel

/-! ## The other commands, the step and the ports -/

/-- V-FL-1. -/
theorem test_push_first :
    stateOf (exec (.framePush 0xAA) State.reset) = { State.reset with fb := [(0, 0xAA)], flen := 1 } := by decide

/-- V-FL-3: the 154th byte is counted and not stored. -/
theorem test_push_past_end :
    stateOf (exec (.framePush 0x77) (loaded exampleFrame)) = { loaded exampleFrame with flen := 154 } := by
  decide +kernel

/-- V-FL-4: the count saturates. -/
theorem test_push_saturates :
    (stateOf (exec (.framePush 0x00) { State.reset with flen := 0xFFFF })).flen = 0xFFFF := by decide

/-- V-FL-2. -/
theorem test_clear :
    stateOf (exec .frameClear
      { State.reset with crc := 0xA0FE, flen := 153, result := 1, crcExp := 0x2827, illegal := true }) =
      { State.reset with crc := 0xA0FE, illegal := true } := by decide

/-- V-CRC-7. -/
theorem test_crcInit : (stateOf (exec .crcInit { State.reset with crc := 0x4B37 })).crc = 0xFFFF := by decide

/-- R91's example. -/
theorem test_nop : (stateOf (exec .nop { State.reset with crc := 0x1234 })).crc = 0x1234 := by decide

/-- V-CT-2: an illegal word sets bit 3 of STATUS and nothing else. -/
theorem test_illegal_word :
    stateOf (step (State.reset.withFetchWord 16 0x0101)) = { State.reset with illegal := true } := by decide

/-- V-CT-3: `ILLEGAL` reads as bit 3 of STATUS. -/
theorem test_illegal_status : ({ State.reset with illegal := true, result := 1 } : State).readPort 0x00 = 9 := by
  decide

/-- An instruction placed for the step is the one it runs. -/
theorem test_fetch_runs :
    stateOf (step (State.reset.withFetchWord 16 0x027F)) = { State.reset with crc := 0xA0FE } := by decide

/-- V-RS-2: a reset takes `ILLEGAL` back. -/
theorem test_reset_clears :
    stateOf (step { State.reset with illegal := true, crc := 0, inputs := [.reset] }) = State.reset := by decide

/-- P1: CRC.SEQ of the request frame as assembler text, its words as the host issues them, and the read. -/
theorem test_program_crc :
    (match assembleProgram ["CRC.SEQ 0x7F, 0x03, 0x75, 0x94, 0x00, 0x49  ; P1".toList, "RD 0x01 -> 0x0000C2D5".toList] with
      | .ok xs => (stateOf (performAll xs State.reset)).replies
      | .error _ => []) = [0x0000C2D5] := by decide +kernel

/-- V-FD-4: the read word's byte lanes. -/
theorem test_byte_lanes : byteLanes 0x000249F0 = [0xF0, 0x49, 0x02, 0x00] := by decide

/-! ## Assembler text (R77, R78, R83) -/

theorem test_text_command :
    assembleText "crc.byte 0x7F   ; 027F".toList = .ok [.command 0x027F] := by decide +kernel
theorem test_text_decimal : assembleText "FRAME.PUSH 255".toList = .ok [.command 0x11FF] := by decide +kernel
theorem test_text_out_of_range : assembleText "FRAME.PUSH 256".toList = .error .illFormed := by decide +kernel
theorem test_text_raw_word : assembleText ".word 0x1201".toList = .ok [.command 0x1201] := by decide +kernel
theorem test_text_unknown : assembleText "CRC.BITE 1".toList = .error .unknownMnemonic := by decide +kernel
theorem test_text_poll :
    assembleText "FRAME.POLL 0xAA".toList = .ok [.command 0x1000, .command 0x11AA, .command 0x1200] := by
  decide +kernel
theorem test_hexWord : hexWord 0x027F = "027F".toList := by decide +kernel

/-! ## The consumer's view (R157, R185, V-FD-14, V-EX-7) -/

theorem test_decimal_tenths : Scaled.decimal ⟨2300, 10⟩ = "230.0".toList := by decide +kernel
theorem test_decimal_hundredths : Scaled.decimal ⟨5, 100⟩ = "0.05".toList := by decide +kernel
theorem test_output_datetime :
    decodedExample.outputView.map (·.datetime) = some "2024-03-15 12:30:45".toList := by decide +kernel
theorem test_output_channels :
    decodedExample.outputView.map (fun v => (v.string1, v.string2, v.phase1)) =
      some (some ⟨⟨2300, 10⟩, ⟨50, 10⟩, ⟨115000, 100⟩⟩, none, none) := by decide +kernel

/-! ## Witnesses: states and operands that meet the hypotheses of the obligations -/

/-- StepRunsTheDecodedCommand. -/
theorem witness_step_runs :
    ({ State.reset with inputs := [.command 0x027F] } : State).inputs = .command 0x027F :: [] ∧
      decode 0x027F = .ok (.crcByte 0x7F) := by decide

/-- IllegalWordOnlySetsIllegal, OnlyIllegalWordsSetIllegal: an illegal word from `ILLEGAL = 0`, a kept flag, and
a reset that takes the flag back. -/
theorem witness_illegal :
    (decode 0x0300 = .error (.reservedOpcode 0x03) ∧
      step { State.reset with inputs := [.command 0x0300] } = .next { State.reset with illegal := true }) ∧
    (step { State.reset with illegal := true, inputs := [.command 0x0000] } =
      .next { State.reset with illegal := true }) ∧
    (step { State.reset with illegal := true, inputs := [.reset] } = .next State.reset) :=
  ⟨⟨rfl, rfl⟩, rfl, rfl⟩

/-- IllegalWordsRejectedByName: the boundary opcodes of each clause. -/
theorem witness_rejected_opcodes :
    ([0x03#8, 0x0F#8, 0x13#8, 0xFF#8].all fun op => op ∉ [0x00#8, 0x01#8, 0x02#8, 0x10#8, 0x11#8, 0x12#8]) = true ∧
    ([0x00#8, 0x01#8, 0x10#8, 0x12#8].all fun op => decode (mkWord op 0x01) != .ok .nop) = true := by decide

/-- LegalWordsAreTheCommandWords: a word of each side of the rule, at the boundary of its operand. -/
theorem witness_legal_sides : legal 0x02FF = true ∧ legal 0x11FF = true ∧ legal 0x1200 = true ∧
    legal 0x0001 = false ∧ legal 0x1300 = false := by decide

/-- ReadChangesNoRegister, WhoWritesWhat, EveryStepFinishes: a read waits to be taken. -/
theorem witness_read :
    step { State.reset with inputs := [.read 0x01] } = .next { State.reset with replies := [0xFFFF] } := rfl

/-- IdleStepHoldsState. -/
theorem witness_idle : State.reset.inputs = [] ∧ step State.reset = .next State.reset := ⟨rfl, rfl⟩

/-- FramePushStoresAndCounts, FrameLoadFillsBuffer, FrameRoundTrip, EverySingleBitFlipIsFound: a canonical
buffer with bytes in it. -/
theorem witness_memory_wf : Memory.wf exampleFrame = true ∧ Memory.wf State.reset.fb = true := by decide

/-- FramePushStoresAndCounts: the clauses at their boundaries, counts 152, 153 and 0xFFFF. -/
theorem witness_push_boundaries :
    (stateOf (exec (.framePush 0x28) { loaded exampleFrame with flen := 152 })).flen = 153 ∧
    (stateOf (exec (.framePush 0x28) { loaded exampleFrame with flen := 152 })).fb.read 152 = 0x28 ∧
    (stateOf (exec (.framePush 0x28) (loaded exampleFrame))).flen = 154 ∧
    (stateOf (exec (.framePush 0x28) { loaded exampleFrame with flen := 0xFFFF })).flen = 0xFFFF := by
  decide +kernel

/-- DecodeWrongLength (on either side of 153) and the FLEN = 0 clause of DecodeIsRepeatable. -/
theorem witness_wrong_length :
    ({ State.reset with flen := 152 } : State).flen ≠ 153 ∧ ({ State.reset with flen := 154 } : State).flen ≠ 153 ∧
      State.reset.flen = 0 := by decide

/-- DecodeWrongHeader: either header byte wrong, the length right. -/
theorem witness_wrong_header :
    (loaded exampleFrame).flen = 153 ∧ ¬ ((loaded [(1, 0x55)]).fb.read 0 = 0xAA ∧ (loaded [(1, 0x55)]).fb.read 1 = 0x55) ∧
      ¬ ((loaded [(0, 0xAA)]).fb.read 0 = 0xAA ∧ (loaded [(0, 0xAA)]).fb.read 1 = 0x55) := by decide

/-- DecodeWrongCrc, FailedDecodeLeavesNoReading: length and header right, the CRC wrong. -/
theorem witness_wrong_crc :
    computeCrc16 ((List.range 149).map fun o => (loaded [(0, 0xAA), (1, 0x55)]).fb.read (2 + o)) ≠
      le16 ((loaded [(0, 0xAA), (1, 0x55)]).fb.read 151) ((loaded [(0, 0xAA), (1, 0x55)]).fb.read 152) := by
  rw [computeCrc16_eq_strict]
  decide +kernel

/-- FailedDecodeLeavesNoReading: a decode from reset answers a next state with a result other than 1. -/
theorem witness_failed_decode :
    exec .frameDecode State.reset = .next (State.reset.raiseDecodeError errLength) ∧
      (State.reset.raiseDecodeError errLength).result ≠ 1 := ⟨exec_decoded _, by decide⟩

/-- DecodeValidFrame: the frame of V-EX-7 meets every hypothesis. -/
theorem witness_valid_frame :
    (loaded exampleFrame).flen = 153 ∧ (loaded exampleFrame).fb.read 0 = 0xAA ∧
    (loaded exampleFrame).fb.read 1 = 0x55 ∧
    computeCrc16 ((List.range 149).map fun o => (loaded exampleFrame).fb.read (2 + o)) =
      le16 ((loaded exampleFrame).fb.read 151) ((loaded exampleFrame).fb.read 152) := by
  rw [computeCrc16_eq_strict]
  decide +kernel

/-- EverySingleBitFlipIsFound: the frame of V-EX-7 is valid, at the last bit of the frame and at the boundary
between header and payload. -/
theorem witness_bit_flip : Memory.wf (loaded exampleFrame).fb = true ∧ (loaded exampleFrame).ValidFrame ∧
    152 < 153 ∧ 7 < 8 ∧ (1 < 2 ∧ ¬ 2 < 2) :=
  ⟨by decide, ⟨by decide, by decide, (computeCrc16_eq_strict _).trans (by decide +kernel)⟩, by decide⟩

/-- DecodeIsRepeatable, first clause: a decode, a read, a CRC command and an illegal word in between. -/
theorem witness_between :
    ∀ x ∈ [Interaction.command 0x1200, .read 0x00, .command 0x02FF, .command 0x1201],
      x ≠ .reset ∧ x ≠ .command 0x1000 ∧ ∀ b : Byte, x ≠ .command (mkWord 0x11 b) := by
  have h : ∀ (w : Half) (b : Byte), Machine.opField w ≠ 0x11 → Interaction.command w ≠ .command (mkWord 0x11 b) :=
    fun w b hw he => hw (by injection he with he; rw [he, opField_mkWord])
  intro x hx
  simp only [List.mem_cons, List.not_mem_nil, or_false] at hx
  rcases hx with rfl | rfl | rfl | rfl
  · exact ⟨by decide, by decide, fun b => h _ b (by decide)⟩
  · exact ⟨by decide, by decide, fun b => by simp⟩
  · exact ⟨by decide, by decide, fun b => h _ b (by decide)⟩
  · exact ⟨by decide, by decide, fun b => h _ b (by decide)⟩

/-- CrcByteIsInjective: operands that meet each hypothesis. NopChangesNothing, CrcInitSetsAccumulator,
FrameClearClears: the least immediate that is not 0. -/
theorem witness_small :
    crcByte 0x1234 0x56 = crcByte 0x1234 0x56 ∧ (0x01 : Byte) ≠ 0 := ⟨rfl, by decide⟩

/-- DecodeIsRepeatable, third clause: two states that differ where the decoder does not look. -/
theorem witness_decode_inputs :
    ({ loaded exampleFrame with crc := 0 } : State) ≠ loaded exampleFrame ∧
    ({ loaded exampleFrame with crc := 0 } : State).flen = (loaded exampleFrame).flen ∧
    ({ loaded exampleFrame with crc := 0 } : State).offsetBias = (loaded exampleFrame).offsetBias ∧
    ∀ i : Nat, i < 153 →
      ({ loaded exampleFrame with crc := 0 } : State).fb.read i = (loaded exampleFrame).fb.read i :=
  ⟨by decide, rfl, rfl, fun _ _ => rfl⟩

/-- FrameRoundTrip: a payload of the right length. -/
theorem witness_payload : (List.replicate 149 (0xFF : Byte)).length = 149 ∧ Memory.wf State.reset.fb = true :=
  ⟨List.length_replicate, rfl⟩

/-- CrcAndFrameAreIndependent: a command of each family. -/
theorem witness_families :
    Instr.crcInit ∈ [Instr.crcInit, Instr.crcByte 0x7F] ∧
      Instr.frameDecode ∈ [Instr.frameClear, Instr.framePush 0x00, Instr.frameDecode] := by decide

/-- FieldsReadOnlyThePayload: two buffers with one payload and different headers. -/
theorem witness_same_payload :
    Memory.read [(0, 0xAA), (5, 0x0F)] 0 ≠ Memory.read [(5, 0x0F)] 0 ∧
    ∀ i : Nat, 2 ≤ i → i ≤ 150 → Memory.read [(0, 0xAA), (5, 0x0F)] i = Memory.read [(5, 0x0F)] i :=
  ⟨by decide, fun i h _ => by simp [show i ≠ 0 by omega]⟩

/-- ScalerIsExact: each divisor. -/
theorem witness_divisors : (1 ∈ [1, 10, 100]) ∧ (10 ∈ [1, 10, 100]) ∧ (100 ∈ [1, 10, 100]) ∧
    (2301 = 230 * 10 + 1 ∧ 1 < 10) := by decide

/-- PowerIsExactProduct at the largest present voltage, with V-FD-9's value. -/
theorem witness_largest_power : (0xFFFE#16 : Half) ≠ 0xFFFF ∧ (channelPower 0xFFFE 0xFFFF).toNat = 4294770690 := by
  decide

/-- StringChannelsFromPayload, PhaseChannelsFromPayload: the last channel of each kind. -/
theorem witness_channels :
    [(decodeFields exampleFrame 50).string1, (decodeFields exampleFrame 50).string2,
      (decodeFields exampleFrame 50).string3, (decodeFields exampleFrame 50).string4][3]? =
        some (decodeFields exampleFrame 50).string4 ∧
    [(decodeFields exampleFrame 50).phase1, (decodeFields exampleFrame 50).phase2,
      (decodeFields exampleFrame 50).phase3][2]? = some (decodeFields exampleFrame 50).phase3 := ⟨rfl, rfl⟩

/-- ReadPortWindows, RegisterMap: the boundary addresses read 0 from reset, but for `CRC`. -/
theorem witness_windows :
    State.reset.readPort 0x3F = 0 ∧ State.reset.readPort 0x41 = 0xFFFF ∧ State.reset.readPort 0x81 = 0 ∧
      State.reset.readPort 0xC0 = 0 ∧ State.reset.readPort 0xFF = 0 ∧ State.reset.readPort 0x0D = 0 := by decide

/-- A state whose reading has six channels present and one absent. -/
def readingState : State :=
  State.reset.commitReading
    { Reading.zero with
      tsYear := 2000
      string1 := ⟨true, 0, 0, 0⟩
      string2 := ⟨true, 0, 0, 0⟩
      string3 := ⟨true, 0, 0, 0⟩
      string4 := ⟨true, 0, 0, 0⟩
      phase1 := ⟨true, 0, 0, 0, 0⟩
      phase2 := ⟨true, 0, 0, 0, 0⟩
      phase3 := ⟨false, 0xFFFF, 5, 6, 0⟩ }

/-- StatusWordFields, StepKeepsInvariant: a state with a reading that meets the invariant, and a step from it. -/
theorem witness_invariant :
    ({ readingState with inputs := [.command 0x11AA] } : State).Inv ∧
    step { readingState with inputs := [.command 0x11AA] } = .next (readingState.pushByte 0xAA) :=
  ⟨⟨by decide, by decide, by decide, by decide, by decide, by decide, fun _ =>
    ⟨by decide, ⟨by decide, by decide⟩, ⟨by decide, by decide⟩, ⟨by decide, by decide⟩, ⟨by decide, by decide⟩,
      ⟨by decide, by decide⟩, ⟨by decide, by decide⟩, ⟨by decide, by decide⟩⟩⟩, rfl⟩

/-- UnpushedBytesAreUnobservable: two states that differ in a byte nothing has pushed. -/
theorem witness_unpushed :
    SameButUnpushed { State.reset with flen := 1 } { State.reset with flen := 1, fb := [(7, 0x99)] } :=
  ⟨by decide, by decide, rfl, fun i h _ => by
    have h1 : i < 1 := h
    have h2 : i ≠ 7 := by omega
    simp [State.reset, h2]⟩

/-- WhoWritesWhat: a step that changes the accumulator and the buffer. -/
theorem witness_writes :
    (stateOf (step { State.reset with inputs := [.command 0x0200] })).crc ≠ State.reset.crc ∧
    (stateOf (step { State.reset with inputs := [.command 0x11AA] })).fb.read 0 ≠ State.reset.fb.read 0 ∧
    (stateOf (step { State.reset with inputs := [.command 0x1200] })).result ≠ State.reset.result := by
  decide +kernel

/-- OutputViewOmitsAbsentChannels: a state on each side of the rule. -/
theorem witness_output : decodedExample.outputView.isSome = true ∧ State.reset.outputView = none := by
  decide +kernel

/-- AssemblerAcceptsExactlyTheRange: the last operand accepted and the first refused. -/
theorem witness_assembler :
    assembleLine ⟨.crcByte, [255], none⟩ = .ok [.command 0x02FF] ∧
    assembleLine ⟨.crcByte, [256], none⟩ = .error .illFormed ∧
    assembleLine ⟨.dotWord, [65535], none⟩ = .ok [.command 0xFFFF] ∧
    assembleLine ⟨.dotWord, [65536], none⟩ = .error .illFormed := by decide +kernel

/-- CanonicalMemoryIsExtensional: two ways to the same contents. -/
theorem witness_canonical :
    Memory.write (Memory.write [] 7 0x01) 3 0x02 = Memory.write (Memory.write [] 3 0x02) 7 0x01 ∧
    Memory.wf (Memory.write (Memory.write [] 7 0x01) 3 0x02) = true := by decide

end Sys2Proof.Tests
end

section
/-! The command words, read back from the decoder: a decoded word is the word of its command, and the legality
check of R74 accepts every word that decodes. -/

namespace Sys2Proof

/-- The opcode of a command as a number (R73). -/
def Instr.opcode : Instr → Nat
  | .nop => 0x00
  | .crcInit => 0x01
  | .crcByte _ => 0x02
  | .frameClear => 0x10
  | .framePush _ => 0x11
  | .frameDecode => 0x12

/-- The opcode stands above the immediate in the word of a command (R71). -/
theorem encode_toNat_div (i : Instr) : (encode i).toNat / 256 = i.opcode := by
  have div_of_op (op imm : Byte) : (mkWord op imm).toNat / 256 = op.toNat := by
    have := imm.isLt
    rw [mkWord_toNat]
    omega
  cases i <;> exact div_of_op _ _

/-- Legality of a word made from its fields (R74). -/
theorem legal_mkWord (op imm : Byte) : legal (mkWord op imm) = true ↔
    (op = 0x02 ∨ op = 0x11) ∨ ((op = 0x00 ∨ op = 0x01 ∨ op = 0x10 ∨ op = 0x12) ∧ imm = 0) := by
  simp [legal, or_assoc]

/-- The word of every command is legal (R74). -/
theorem legal_encode (i : Instr) : legal (encode i) = true := by
  cases i <;> simp [encode, legal_mkWord]

/-- A word that decodes is the word of its command (R76). -/
theorem eq_encode_of_decode {w : Half} {i : Instr} (h : decode w = .ok i) : w = encode i := by
  rw [← mkWord_fields w] at h ⊢
  rw [decode_mkWord] at h
  split_ifs at h <;> cases h <;> simp_all [encode]

/-- A legal word decodes (R74). -/
theorem exists_decode_of_legal {w : Half} (h : legal w = true) : ∃ i, decode w = .ok i := by
  rw [← mkWord_fields w] at h ⊢
  rw [legal_mkWord] at h
  rw [decode_mkWord]
  rcases h with (hop | hop) | ⟨hop | hop | hop | hop, himm⟩ <;> simp [*]

/-- A word that does not decode is not legal (R74). -/
theorem legal_eq_false_of_decode_error {w : Half} {e : IllegalWord} (h : decode w = .error e) :
    legal w = false := by
  rw [Bool.eq_false_iff]
  intro hlegal
  obtain ⟨i, hi⟩ := exists_decode_of_legal hlegal
  simp [h] at hi

end Sys2Proof
end

section
/-! Everything a step can do, as one inversion: which interaction stood at the front of the queue, and what it did
to the state. The statements about every step are read off its cases. -/

namespace Sys2Proof.Machine

/-- What one step from `s` can be: the idle step (R216), one of the six commands by the word it came as (R90), an
illegal word (R205), a read (R57) or a reset (R220). -/
inductive StepEffect (s : State) : State → Prop where
  | idle : s.inputs = [] → StepEffect s s
  | nop {rest} : s.inputs = .command (encode .nop) :: rest → StepEffect s (s.takeInput rest)
  | crcInit {rest} : s.inputs = .command (encode .crcInit) :: rest →
      StepEffect s ((s.takeInput rest).setCrc Config.crcInit)
  | crcByte {b rest} : s.inputs = .command (encode (.crcByte b)) :: rest →
      StepEffect s ((s.takeInput rest).setCrc (crcByte s.crc b))
  | frameClear {rest} : s.inputs = .command (encode .frameClear) :: rest →
      StepEffect s (s.takeInput rest).clearFrame
  | framePush {b rest} : s.inputs = .command (encode (.framePush b)) :: rest →
      StepEffect s ((s.takeInput rest).pushByte b)
  | frameDecode {rest} : s.inputs = .command (encode .frameDecode) :: rest →
      StepEffect s ((s.takeInput rest).decodeWith (computeCrc16 (payloadOf s.fb)) (receivedCrc s.fb))
  | illegal {w rest} : s.inputs = .command w :: rest → legal w = false →
      StepEffect s (s.takeInput rest).raiseIllegalCommand
  | read {a rest} : s.inputs = .read a :: rest → StepEffect s ((s.takeInput rest).hostRead a)
  | reset {rest} : s.inputs = .reset :: rest → StepEffect s (s.takeInput rest).hostReset

/-- The effect of a command that is taken from the queue (R90). -/
theorem StepEffect.of_exec {s t : State} {i : Instr} {rest : List Interaction}
    (hin : s.inputs = .command (encode i) :: rest) (h : exec i (s.takeInput rest) = .next t) :
    StepEffect s t := by
  cases i with
  | nop => cases h; exact .nop hin
  | crcInit => cases h; exact .crcInit hin
  | crcByte b => cases h; exact .crcByte hin
  | frameClear => cases h; exact .frameClear hin
  | framePush b => cases h; exact .framePush hin
  | frameDecode =>
    obtain rfl := Host.Outcome.next.inj ((execFrameDecode_eq (s.takeInput rest)).symm.trans h)
    exact .frameDecode hin

/-- Every step is one of the cases of `StepEffect`. -/
theorem stepEffect_of_step {s t : State} (h : step s = .next t) : StepEffect s t := by
  rcases step_cases s with ⟨hin, hstep⟩ | ⟨x, rest, hin, hstep⟩
  · obtain rfl := Host.Outcome.next.inj (hstep.symm.trans h)
    exact .idle hin
  rw [hstep] at h
  rcases perform_cases x (s.takeInput rest) with
    ⟨w, i, rfl, hdec, hp⟩ | ⟨w, e, rfl, hdec, hp⟩ | ⟨a, rfl, hp⟩ | ⟨rfl, hp⟩
  · obtain rfl := eq_encode_of_decode hdec
    exact .of_exec hin (hp.symm.trans h)
  · obtain rfl := Host.Outcome.next.inj (hp.symm.trans h)
    exact .illegal hin (legal_eq_false_of_decode_error hdec)
  · obtain rfl := Host.Outcome.next.inj (hp.symm.trans h)
    exact .read hin
  · obtain rfl := Host.Outcome.next.inj (hp.symm.trans h)
    exact .reset hin

end Sys2Proof.Machine
end

section
/-! The invariant `State.Inv`: one lemma for each kind of state that a step leaves behind, then the step. -/

namespace Sys2Proof.Machine

/-- The year register of a reading does not wrap (R170). -/
theorem yearOf_toNat (yy : Byte) : (yearOf yy).toNat = 2000 + yy.toNat := by
  have := yy.isLt
  rw [yearOf, BitVec.toNat_add, BitVec.toNat_setWidth]
  simp only [BitVec.toNat_ofNat]
  omega

/-- The present flag against the raw voltage (R160, R161). -/
theorem not_isSentinel_iff (v : Half) : (!isSentinel v) = true ↔ v ≠ 0xFFFF#16 := by
  simp [isSentinel]

/-- The power register against the present flag (R176, R178). -/
theorem channelPower_toNat_of_present (v i : Half) :
    (channelPower v i).toNat = if (!isSentinel v) = true then v.toNat * i.toNat else 0 := by
  rw [channelPower_toNat]
  simp only [not_isSentinel_iff, ne_eq, ite_not]

/-- A string channel read from a payload agrees with itself (R176). -/
theorem stringChannel_consistent (m : Memory) (bias : Fin 51) (k : Nat) :
    (stringChannel m bias k).Consistent :=
  ⟨not_isSentinel_iff _, channelPower_toNat_of_present _ _⟩

/-- A phase channel read from a payload agrees with itself (R178). -/
theorem phaseChannel_consistent (m : Memory) (bias : Fin 51) (j : Nat) :
    (phaseChannel m bias j).Consistent :=
  ⟨not_isSentinel_iff _, channelPower_toNat_of_present _ _⟩

/-- A payload gives a consistent reading (R31 to R34, R187). -/
theorem decodeFields_consistent (m : Memory) (bias : Fin 51) : (decodeFields m bias).Consistent where
  year := yearOf_toNat _
  string1 := stringChannel_consistent m bias 0
  string2 := stringChannel_consistent m bias 1
  string3 := stringChannel_consistent m bias 2
  string4 := stringChannel_consistent m bias 3
  phase1 := phaseChannel_consistent m bias 0
  phase2 := phaseChannel_consistent m bias 1
  phase3 := phaseChannel_consistent m bias 2

/-- The invariant speaks of the buffer, `RESULT`, the diagnostics and the reading alone: it carries over to a state
that has the same verdict and a buffer in canonical form. -/
theorem State.Inv.of_same_verdict {s t : State} (h : s.Inv) (hwf : Memory.wf t.fb = true)
    (hresult : t.result = s.result) (hreading : t.reading = s.reading)
    (hexp : t.crcExp = s.crcExp) (hrcv : t.crcRcv = s.crcRcv) : t.Inv where
  memory := hwf
  resultLegal := hresult ▸ h.resultLegal
  noReading := by rw [hresult, hreading]; exact h.noReading
  noDiagnostics := by rw [hresult, hexp, hrcv]; exact h.noDiagnostics
  crcsDiffer := by rw [hresult, hexp, hrcv]; exact h.crcsDiffer
  crcsAgree := by rw [hresult, hexp, hrcv]; exact h.crcsAgree
  readingConsistent := by rw [hresult, hreading]; exact h.readingConsistent

/-- The invariant of a state with no reading and no diagnostics: after reset, FRAME.CLEAR, or a decode that failed at
the length or the header (R38, R120, R136). -/
theorem State.Inv.of_empty {s : State} (hwf : Memory.wf s.fb = true)
    (hresult : s.result = resultNone ∨ s.result = errLength ∨ s.result = errHeader)
    (hreading : s.reading = Reading.zero) (hexp : s.crcExp = 0) (hrcv : s.crcRcv = 0) : s.Inv := by
  have hcode : s.result.toNat ≤ 4 ∧ s.result ≠ resultOk ∧ s.result ≠ errIntegrity := by
    rcases hresult with h | h | h <;> rw [h] <;> decide
  obtain ⟨hlegal, hnotOk, hnotIntegrity⟩ := hcode
  exact ⟨hwf, hlegal, fun _ => hreading, fun _ => ⟨hexp, hrcv⟩, fun h => absurd h hnotIntegrity,
    fun h => absurd h hnotOk, fun h => absurd h hnotOk⟩

/-- The invariant after a decode that failed at the CRC (R133, R136). -/
theorem State.Inv.of_integrity_error {s : State} (hwf : Memory.wf s.fb = true)
    (hresult : s.result = errIntegrity) (hreading : s.reading = Reading.zero) (hne : s.crcExp ≠ s.crcRcv) :
    s.Inv where
  memory := hwf
  resultLegal := by rw [hresult]; decide
  noReading _ := hreading
  noDiagnostics h := absurd h (by rw [hresult]; decide)
  crcsDiffer _ := hne
  crcsAgree h := absurd h (by rw [hresult]; decide)
  readingConsistent h := absurd h (by rw [hresult]; decide)

/-- The invariant after a successful decode (R133, R135). -/
theorem State.Inv.of_success {s : State} (hwf : Memory.wf s.fb = true) (hresult : s.result = resultOk)
    (heq : s.crcExp = s.crcRcv) (hreading : s.reading.Consistent) : s.Inv where
  memory := hwf
  resultLegal := by rw [hresult]; decide
  noReading h := absurd hresult h
  noDiagnostics h := absurd h (by rw [hresult]; decide)
  crcsDiffer h := absurd h (by rw [hresult]; decide)
  crcsAgree _ := heq
  readingConsistent _ := hreading

/-- FRAME.DECODE establishes the invariant from any canonical buffer, verdict by verdict (R206). -/
theorem State.Inv.of_decodeWith {s : State} (hwf : Memory.wf s.fb = true) (exp rcv : Half) :
    (s.decodeWith exp rcv).Inv := by
  rcases s.decodeWith_cases exp rcv with
    ⟨-, h⟩ | ⟨-, -, h⟩ | ⟨-, -, hne, h⟩ | ⟨-, -, heq, h⟩ <;> rw [h]
  · exact .of_empty hwf (.inr (.inl rfl)) rfl rfl rfl
  · exact .of_empty hwf (.inr (.inr rfl)) rfl rfl rfl
  · exact .of_integrity_error hwf rfl rfl hne
  · exact .of_success hwf rfl heq (decodeFields_consistent _ _)

/-- Every effect of a step keeps the invariant. -/
theorem StepEffect.keeps_inv {s t : State} (h : StepEffect s t) (hs : s.Inv) : t.Inv := by
  have hwf := hs.memory
  cases h with
  | idle => exact hs
  | nop | crcInit | crcByte | illegal | read => exact hs.of_same_verdict hwf rfl rfl rfl rfl
  | frameClear => exact .of_empty hwf (.inl rfl) rfl rfl rfl
  | reset => exact .of_empty rfl (.inl rfl) rfl rfl rfl
  | framePush => exact hs.of_same_verdict (State.pushByte_wf _ _ hwf) rfl rfl rfl rfl
  | frameDecode => exact .of_decodeWith (by exact hwf) _ _

/-- Settles O53: after reset there is no verdict and nothing is listed in the buffer. -/
theorem invariantAtReset : Obligations.InvariantAtReset :=
  .of_empty rfl (.inl rfl) rfl rfl rfl

/-- Settles O54, by the cases of a step. -/
theorem stepKeepsInvariant : Obligations.StepKeepsInvariant :=
  fun _ _ hs hstep => (stepEffect_of_step hstep).keeps_inv hs

end Sys2Proof.Machine
end

section
/-! Who writes what: `ILLEGAL` over a step, and R22's column "written by". -/

namespace Sys2Proof.Machine

/-- A legal word with this opcode is the next interaction. -/
def State.IssuesOpcode (s : State) (op : Nat) : Prop :=
  ∃ w rest, s.inputs = .command w :: rest ∧ legal w = true ∧ w.toNat / 256 = op

/-- The word of a command at the front of the queue is a legal word with the command's opcode. -/
theorem State.issuesOpcode_of_inputs {s : State} {i : Instr} {rest : List Interaction}
    (hin : s.inputs = .command (encode i) :: rest) : s.IssuesOpcode i.opcode :=
  ⟨_, _, hin, legal_encode i, encode_toNat_div i⟩

/-- A reset is the next interaction. -/
def State.ResetNext (s : State) : Prop := s.inputs.head? = some .reset

/-- A reset at the front of the queue is the next interaction. -/
theorem State.resetNext_of_inputs (s : State) {rest : List Interaction} (hin : s.inputs = .reset :: rest) :
    s.ResetNext := by
  rw [State.ResetNext, hin, List.head?_cons]

/-- The pieces of state that R22 lists with one writer in common: the verdict of a decode. -/
def State.verdict (s : State) : BitVec 3 × Half × Half × Reading :=
  (s.result, s.crcExp, s.crcRcv, s.reading)

/-- `ILLEGAL` is written by illegal words and resets alone (R27). -/
theorem StepEffect.illegal_eq_or {s t : State} (h : StepEffect s t) :
    t.illegal = s.illegal ∨
    (t.illegal = true ∧ ∃ w rest, s.inputs = .command w :: rest ∧ legal w = false) ∨
    (t.illegal = false ∧ s.ResetNext) := by
  cases h with
  | illegal hin hlegal => exact .inr (.inl ⟨rfl, _, _, hin, hlegal⟩)
  | reset hin => exact .inr (.inr ⟨rfl, s.resetNext_of_inputs hin⟩)
  | idle | nop | crcInit | crcByte | frameClear | framePush | frameDecode | read => exact .inl (by simp)

/-- The writers of `CRC` (R23). -/
theorem StepEffect.crc_eq_or {s t : State} (h : StepEffect s t) :
    t.crc = s.crc ∨ s.IssuesOpcode 0x01 ∨ s.IssuesOpcode 0x02 ∨ s.ResetNext := by
  cases h with
  | crcInit hin => exact .inr (.inl (State.issuesOpcode_of_inputs hin))
  | crcByte hin => exact .inr (.inr (.inl (State.issuesOpcode_of_inputs hin)))
  | reset hin => exact .inr (.inr (.inr (s.resetNext_of_inputs hin)))
  | idle | nop | frameClear | framePush | frameDecode | illegal | read => exact .inl (by simp)

/-- The writers of `FB` (R24). -/
theorem StepEffect.fb_eq_or {s t : State} (h : StepEffect s t) :
    t.fb = s.fb ∨ s.IssuesOpcode 0x11 ∨ s.ResetNext := by
  cases h with
  | framePush hin => exact .inr (.inl (State.issuesOpcode_of_inputs hin))
  | reset hin => exact .inr (.inr (s.resetNext_of_inputs hin))
  | idle | nop | crcInit | crcByte | frameClear | frameDecode | illegal | read => exact .inl (by simp)

/-- The writers of `FLEN` (R25). -/
theorem StepEffect.flen_eq_or {s t : State} (h : StepEffect s t) :
    t.flen = s.flen ∨ s.IssuesOpcode 0x10 ∨ s.IssuesOpcode 0x11 ∨ s.ResetNext := by
  cases h with
  | frameClear hin => exact .inr (.inl (State.issuesOpcode_of_inputs hin))
  | framePush hin => exact .inr (.inr (.inl (State.issuesOpcode_of_inputs hin)))
  | reset hin => exact .inr (.inr (.inr (s.resetNext_of_inputs hin)))
  | idle | nop | crcInit | crcByte | frameDecode | illegal | read => exact .inl (by simp)

/-- The writers of `RESULT`, the diagnostics and the reading registers (R26, R28, R29, R31). -/
theorem StepEffect.verdict_eq_or {s t : State} (h : StepEffect s t) :
    t.verdict = s.verdict ∨ s.IssuesOpcode 0x10 ∨ s.IssuesOpcode 0x12 ∨ s.ResetNext := by
  cases h with
  | frameClear hin => exact .inr (.inl (State.issuesOpcode_of_inputs hin))
  | frameDecode hin => exact .inr (.inr (.inl (State.issuesOpcode_of_inputs hin)))
  | reset hin => exact .inr (.inr (.inr (s.resetNext_of_inputs hin)))
  | idle | nop | crcInit | crcByte | framePush | illegal | read => exact .inl (by simp [State.verdict])

/-- Settles O9: a flag that changed was written by an illegal word, which raises it, or by a reset, which drops it. -/
theorem onlyIllegalWordsSetIllegal : Obligations.OnlyIllegalWordsSetIllegal := by
  intro s t hstep
  rcases (stepEffect_of_step hstep).illegal_eq_or with hsame | ⟨hset, hword⟩ | ⟨hclear, hreset⟩
  · exact ⟨fun h0 h1 => by simp [hsame, h0] at h1, fun h1 h0 => by simp [hsame, h1] at h0⟩
  · exact ⟨fun _ _ => hword, fun _ h0 => by simp [hset] at h0⟩
  · exact ⟨fun _ h1 => by simp [hclear] at h1, fun _ _ => hreset⟩

/-- Settles O56, piece by piece from the `…_eq_or` lemmas: a piece that changed has one of its writers at the front of
the queue. -/
theorem whoWritesWhat : Obligations.WhoWritesWhat := by
  intro s t hstep
  have heffect := stepEffect_of_step hstep
  have hverdict := heffect.verdict_eq_or
  simp only [State.verdict, Prod.mk.injEq] at hverdict
  refine ⟨heffect.crc_eq_or.resolve_left, fun ⟨i, hi⟩ => heffect.fb_eq_or.resolve_left ?_,
    heffect.flen_eq_or.resolve_left, ?_, ?_, ?_, ?_⟩
  · intro hfb
    exact hi (by rw [hfb])
  all_goals
    intro hne
    exact hverdict.resolve_left fun ⟨hresult, hexp, hrcv, hreading⟩ => hne ‹_›

end Sys2Proof.Machine
end

section
/-! Bytes that nothing has pushed: the decoder and the read port see the frame buffer below `FLEN` alone, and every
command keeps two states apart at most in what lies above. -/

namespace Sys2Proof.Machine

/-! What the decoder reads is the same of two buffers that agree on every index of `FB`. -/

section DecoderReads

variable {m m' : Memory} (h : ∀ i : Nat, i < Config.fbCap → m'.read i = m.read i)
include h

theorem headerOk_congr : headerOk m' = headerOk m := by
  rw [headerOk, headerOk, h 0 (by decide), h 1 (by decide)]

theorem payloadOf_congr : payloadOf m' = payloadOf m :=
  Memory.readList_congr fun k _ hk => h k (hk.trans (by decide))

theorem receivedCrc_congr : receivedCrc m' = receivedCrc m := by
  rw [receivedCrc, receivedCrc, h Config.crcPos (by decide), h (Config.crcPos + 1) (by decide)]

theorem payloadByte_congr {o : Nat} (ho : o ≤ 148) : payloadByte m' o = payloadByte m o :=
  h (2 + o) (show 2 + o < 153 by omega)

theorem be16_congr {o : Nat} (ho : o ≤ 147) : be16 m' o = be16 m o := by
  rw [be16, be16, payloadByte_congr h (by omega), payloadByte_congr h (by omega)]

theorem field8_congr (bias : Fin 51) {o : Nat} (ho : o ≤ 98) : field8 m' bias o = field8 m bias o :=
  payloadByte_congr h (by omega)

theorem field16_congr (bias : Fin 51) {o : Nat} (ho : o ≤ 97) : field16 m' bias o = field16 m bias o :=
  be16_congr h (by omega)

theorem field32_congr (bias : Fin 51) {o : Nat} (ho : o ≤ 95) : field32 m' bias o = field32 m bias o := by
  rw [field32, field32, be32, be32, payloadByte_congr h (by omega), payloadByte_congr h (by omega),
    payloadByte_congr h (by omega), payloadByte_congr h (by omega)]

theorem stringChannel_congr (bias : Fin 51) {k : Nat} (hk : k ≤ 3) :
    stringChannel m' bias k = stringChannel m bias k := by
  rw [stringChannel, stringChannel, field16_congr h bias (by omega), field16_congr h bias (by omega)]

theorem phaseChannel_congr (bias : Fin 51) {j : Nat} (hj : j ≤ 2) :
    phaseChannel m' bias j = phaseChannel m bias j := by
  rw [phaseChannel, phaseChannel, field16_congr h bias (by omega), field16_congr h bias (by omega),
    field16_congr h bias (by omega)]

/-- The field extractor reads inside the buffer for every bias (R154). -/
theorem decodeFields_congr (bias : Fin 51) : decodeFields m' bias = decodeFields m bias := by
  simp [decodeFields, field8_congr h, field16_congr h, field32_congr h, stringChannel_congr h,
    phaseChannel_congr h]

end DecoderReads

/-- At a length other than 153 the decoder looks at neither CRC (R131). -/
theorem State.decodeWith_of_wrong_length {s : State} {exp rcv : Half} (h : s.flen.toNat ≠ Config.frameLen) :
    s.decodeWith exp rcv = s.raiseDecodeError errLength := if_pos h

namespace SameButUnpushed

variable {s t : State}

/-- Two updated states differ in the same way when the update leaves the buffer alone, acts on the other registers
without looking at it, and counts no byte. -/
theorem of_update {s' t' : State} (h : SameButUnpushed s t) (hregisters : t' = { s' with fb := t.fb })
    (hfb : s'.fb = s.fb) (hflen : s'.flen.toNat ≤ s.flen.toNat) : SameButUnpushed s' t' where
  wfLeft := hfb ▸ h.wfLeft
  wfRight := by rw [hregisters]; exact h.wfRight
  registers := by rw [hregisters]
  pushed i hi hcap := by
    rw [hregisters, hfb]
    exact h.pushed i (by omega) hcap

theorem takeInput (h : SameButUnpushed s t) (rest : List Interaction) :
    SameButUnpushed (s.takeInput rest) (t.takeInput rest) :=
  h.of_update (by rw [h.registers]; rfl) rfl le_rfl

theorem setCrc (h : SameButUnpushed s t) (c : Half) : SameButUnpushed (s.setCrc c) (t.setCrc c) :=
  h.of_update (by rw [h.registers]; rfl) rfl le_rfl

theorem clearFrame (h : SameButUnpushed s t) : SameButUnpushed s.clearFrame t.clearFrame :=
  h.of_update (by rw [h.registers]; rfl) rfl (Nat.zero_le _)

theorem raiseIllegalCommand (h : SameButUnpushed s t) :
    SameButUnpushed s.raiseIllegalCommand t.raiseIllegalCommand :=
  h.of_update (by rw [h.registers]; rfl) rfl le_rfl

theorem hostRead (h : SameButUnpushed s t) (a : Byte) : SameButUnpushed (s.hostRead a) (t.hostRead a) :=
  h.of_update (by rw [h.registers]; rfl) rfl le_rfl

theorem setDiagnostics (h : SameButUnpushed s t) (exp rcv : Half) :
    SameButUnpushed (s.setDiagnostics exp rcv) (t.setDiagnostics exp rcv) :=
  h.of_update (by rw [h.registers]; rfl) rfl le_rfl

theorem raiseDecodeError (h : SameButUnpushed s t) (code : BitVec 3) :
    SameButUnpushed (s.raiseDecodeError code) (t.raiseDecodeError code) :=
  h.of_update (by rw [h.registers]; rfl) rfl le_rfl

theorem commitReading (h : SameButUnpushed s t) (rd : Reading) :
    SameButUnpushed (s.commitReading rd) (t.commitReading rd) :=
  h.of_update (by rw [h.registers]; rfl) rfl le_rfl

theorem hostReset (h : SameButUnpushed s t) : SameButUnpushed s.hostReset t.hostReset where
  wfLeft := rfl
  wfRight := rfl
  registers := by rw [h.registers]; rfl
  pushed _ _ _ := rfl

/-- The two states agree on their registers. -/
theorem crc_eq (h : SameButUnpushed s t) : t.crc = s.crc := by rw [h.registers]
theorem flen_eq (h : SameButUnpushed s t) : t.flen = s.flen := by rw [h.registers]
theorem inputs_eq (h : SameButUnpushed s t) : t.inputs = s.inputs := by rw [h.registers]
theorem offsetBias_eq (h : SameButUnpushed s t) : t.offsetBias = s.offsetBias := by rw [h.registers]

/-- A push writes the same byte at the same index of both buffers, so that one more byte agrees. -/
theorem pushByte (h : SameButUnpushed s t) (b : Byte) : SameButUnpushed (s.pushByte b) (t.pushByte b) where
  wfLeft := s.pushByte_wf b h.wfLeft
  wfRight := t.pushByte_wf b h.wfRight
  registers := by
    rw [h.registers]
    rfl
  pushed i hi hcap := by
    rw [State.pushByte_flen_toNat] at hi
    rw [State.pushByte_read _ _ _ h.wfLeft, State.pushByte_read _ _ _ h.wfRight, h.flen_eq]
    split
    · rfl
    · exact h.pushed i (by omega) hcap

/-- Given the two CRCs, FRAME.DECODE takes two states whose buffers agree wholly to the same verdict. -/
theorem decodeWith (h : SameButUnpushed s t) (hagree : ∀ i : Nat, i < Config.fbCap → t.fb.read i = s.fb.read i)
    (exp rcv : Half) : SameButUnpushed (s.decodeWith exp rcv) (t.decodeWith exp rcv) := by
  unfold State.decodeWith
  rw [h.flen_eq, headerOk_congr hagree, decodeFields_congr hagree, h.offsetBias_eq]
  split_ifs
  · exact h.raiseDecodeError _
  · exact h.raiseDecodeError _
  · exact (h.setDiagnostics _ _).raiseDecodeError _
  · exact (h.setDiagnostics _ _).commitReading _

/-- A frame of the right length lies wholly below `FLEN`, where the buffers agree; at any other length the verdict is
that of the length check, which does not look at them (R131). -/
theorem of_frameDecode (h : SameButUnpushed s t) :
    SameButUnpushed (s.decodeWith (computeCrc16 (payloadOf s.fb)) (receivedCrc s.fb))
      (t.decodeWith (computeCrc16 (payloadOf t.fb)) (receivedCrc t.fb)) := by
  by_cases hlen : s.flen.toNat = Config.frameLen
  · have hagree : ∀ i : Nat, i < Config.fbCap → t.fb.read i = s.fb.read i :=
      fun i hi => h.pushed i (hlen ▸ hi) hi
    rw [payloadOf_congr hagree, receivedCrc_congr hagree]
    exact h.decodeWith hagree _ _
  · rw [State.decodeWith_of_wrong_length hlen, State.decodeWith_of_wrong_length (h.flen_eq ▸ hlen)]
    exact h.raiseDecodeError _

/-- Every command keeps the two states apart in unpushed bytes alone. -/
theorem of_exec (h : SameButUnpushed s t) (i : Instr) :
    ∃ s' t', exec i s = .next s' ∧ exec i t = .next t' ∧ SameButUnpushed s' t' := by
  cases i with
  | nop => exact ⟨_, _, rfl, rfl, h⟩
  | crcInit => exact ⟨_, _, rfl, rfl, h.setCrc _⟩
  | crcByte b => exact ⟨_, _, rfl, rfl, h.crc_eq ▸ h.setCrc _⟩
  | frameClear => exact ⟨_, _, rfl, rfl, h.clearFrame⟩
  | framePush b => exact ⟨_, _, rfl, rfl, h.pushByte b⟩
  | frameDecode => exact ⟨_, _, execFrameDecode_eq s, execFrameDecode_eq t, h.of_frameDecode⟩

/-- So does every interaction. -/
theorem of_perform (h : SameButUnpushed s t) (x : Interaction) :
    ∃ s' t', perform x s = .next s' ∧ perform x t = .next t' ∧ SameButUnpushed s' t' := by
  cases x with
  | command w =>
    rw [perform, perform, issue, issue]
    cases decode w with
    | ok i => exact h.of_exec i
    | error e => exact ⟨_, _, rfl, rfl, h.raiseIllegalCommand⟩
  | read a => exact ⟨_, _, rfl, rfl, h.hostRead a⟩
  | reset => exact ⟨_, _, rfl, rfl, h.hostReset⟩

/-- The queues agree, so that the two states step by the same interaction. -/
theorem of_step (h : SameButUnpushed s t) :
    ∃ s' t', step s = .next s' ∧ step t = .next t' ∧ SameButUnpushed s' t' := by
  unfold step stepInput
  rw [h.inputs_eq]
  cases s.inputs with
  | nil => exact ⟨_, _, rfl, rfl, h⟩
  | cons x rest => exact (h.takeInput rest).of_perform x

/-- The read port never shows the buffer (R51). -/
theorem readPort_eq (h : SameButUnpushed s t) (a : Byte) : t.readPort a = s.readPort a := by
  rw [h.registers]
  rfl

/-- The read port does not show the buffer, and the pushed bytes are the ones that agree (R230). -/
theorem observe_eq (h : SameButUnpushed s t) : t.observe = s.observe := by
  have himage : t.readImage = s.readImage := by simp only [State.readImage, h.readPort_eq]
  have hpushed : t.pushedBytes = s.pushedBytes := by
    unfold State.pushedBytes
    rw [h.flen_eq]
    split
    · next hlen =>
      have hbelow : ∀ k, k < 0 + s.flen.toNat → k < s.flen.toNat := fun k hk => by omega
      rw [Memory.readList_congr fun k _ hk => h.pushed k (hbelow k hk) ((hbelow k hk).trans_le hlen)]
    · rfl
  rw [State.observe, State.observe, himage, hpushed]

end SameButUnpushed

/-- Settles O55: the observation and the step, each from its own lemma. -/
theorem unpushedBytesAreUnobservable : Obligations.UnpushedBytesAreUnobservable :=
  fun _ _ h => ⟨h.observe_eq, h.of_step⟩

end Sys2Proof.Machine
end

section
/-! The canonical form of the frame buffer: contents decide the list. -/

namespace Sys2Proof.Machine

/-- The first index of a canonical list holds a byte that an unlisted index does not. -/
theorem Memory.cons_read_ne_unlisted {lo : Option Nat} {j : Nat} {b : Byte} {m : Memory}
    (hm : Memory.wfAbove lo ((j, b) :: m) = true) : Memory.read ((j, b) :: m) j ≠ unlistedByte := by
  obtain ⟨-, -, hlisted, -⟩ := (Memory.wfAbove_cons ..).mp hm
  rwa [Memory.read_cons, if_pos rfl]

/-- Below its first index a canonical list reads as unlisted, so a list with the same contents does not begin before
it. -/
theorem Memory.head_le_of_read_eq {lo : Option Nat} {j k : Nat} {b c : Byte} {m m' : Memory}
    (hm : Memory.wfAbove lo ((j, b) :: m) = true) (hm' : Memory.wfAbove lo ((k, c) :: m') = true)
    (hread : ∀ i : Nat, Memory.read ((j, b) :: m) i = Memory.read ((k, c) :: m') i) : k ≤ j := by
  obtain ⟨-, -, -, htail⟩ := (Memory.wfAbove_cons ..).mp hm'
  by_contra hlt
  have hunlisted : Memory.read ((k, c) :: m') j = unlistedByte := by
    rw [Memory.read_cons, if_neg (by omega), Memory.read_of_wfAbove htail (by omega)]
  exact Memory.cons_read_ne_unlisted hm ((hread j).trans hunlisted)

/-- Two canonical lists with the same contents are equal, above any bound they keep. -/
theorem Memory.eq_of_read_eq {lo : Option Nat} {m m' : Memory} (hm : Memory.wfAbove lo m = true)
    (hm' : Memory.wfAbove lo m' = true) (hread : ∀ i : Nat, m.read i = m'.read i) : m = m' := by
  induction m generalizing lo m' with
  | nil =>
    cases m' with
    | nil => rfl
    | cons c m' => exact absurd (hread c.1).symm (Memory.cons_read_ne_unlisted hm')
  | cons c m ih =>
    obtain ⟨j, b⟩ := c
    cases m' with
    | nil => exact absurd (hread j) (Memory.cons_read_ne_unlisted hm)
    | cons c' m' =>
      obtain ⟨k, c⟩ := c'
      obtain rfl : j = k := le_antisymm (Memory.head_le_of_read_eq hm' hm fun i => (hread i).symm)
        (Memory.head_le_of_read_eq hm hm' hread)
      obtain rfl : b = c := by simpa using hread j
      obtain ⟨-, -, -, htail⟩ := (Memory.wfAbove_cons ..).mp hm
      obtain ⟨-, -, -, htail'⟩ := (Memory.wfAbove_cons ..).mp hm'
      have htails : ∀ i : Nat, Memory.read m i = Memory.read m' i := by
        intro i
        by_cases hi : i ≤ j
        · rw [Memory.read_of_wfAbove htail hi, Memory.read_of_wfAbove htail' hi]
        · simpa [show i ≠ j by omega] using hread i
      rw [ih htail htail' htails]

/-- Settles O57, with no lower bound on the indices. -/
theorem canonicalMemoryIsExtensional : Obligations.CanonicalMemoryIsExtensional :=
  fun _ _ hm hm' hread => Memory.eq_of_read_eq hm hm' hread

end Sys2Proof.Machine
end

section
/-! The read port: its four windows, the registers behind the raw one, and the two flag words. -/

namespace Sys2Proof.Machine

section ReadPort

variable (s : State) {a : Nat}

/-- Addresses compare as numbers. -/
theorem address_lt_iff (ha : a ≤ 0xFF) (b : Byte) : BitVec.ofNat 8 a < b ↔ a < b.toNat := by
  rw [BitVec.lt_def, BitVec.toNat_ofNat, Nat.mod_eq_of_lt (by omega)]

/-- An address of a scaled window gives back the raw address. -/
theorem address_sub (base : Nat) : BitVec.ofNat 8 (base + a) - BitVec.ofNat 8 base = BitVec.ofNat 8 a := by
  rw [BitVec.ofNat_add, BitVec.add_comm, BitVec.add_sub_cancel]

/-- The raw window (R40, R44). -/
theorem State.readPort_raw (ha : a < 0x40) :
    s.readPort (BitVec.ofNat 8 a) = rawReg s (BitVec.ofNat 8 a) := by
  unfold State.readPort
  rw [if_pos ((address_lt_iff (by omega) _).mpr ha)]

/-- The quotient window (R40, R44). -/
theorem State.readPort_quotient (ha : a < 0x40) :
    (s.readPort (BitVec.ofNat 8 (0x40 + a))).toNat =
      (s.readPort (BitVec.ofNat 8 a)).toNat / divisor (BitVec.ofNat 8 a) := by
  rw [s.readPort_raw ha]
  unfold State.readPort
  rw [if_neg (by rw [address_lt_iff (by omega)]; simp), if_pos ((address_lt_iff (by omega) _).mpr ?_),
    address_sub 0x40, BitVec.toNat_ofNat, scaleQ]
  · exact Nat.mod_eq_of_lt ((Nat.div_le_self _ _).trans_lt (BitVec.isLt _))
  · simp; omega

/-- The remainder window (R40, R44). -/
theorem State.readPort_remainder (ha : a < 0x40) :
    (s.readPort (BitVec.ofNat 8 (0x80 + a))).toNat =
      (s.readPort (BitVec.ofNat 8 a)).toNat % divisor (BitVec.ofNat 8 a) := by
  rw [s.readPort_raw ha]
  unfold State.readPort
  rw [if_neg (by rw [address_lt_iff (by omega)]; simp; omega),
    if_neg (by rw [address_lt_iff (by omega)]; simp), if_pos ((address_lt_iff (by omega) _).mpr ?_),
    address_sub 0x80, BitVec.toNat_ofNat, scaleR]
  · exact Nat.mod_eq_of_lt ((Nat.mod_le _ _).trans_lt (BitVec.isLt _))
  · simp; omega

/-- Above the windows every address reads 0 (R40). -/
theorem State.readPort_beyond (hlo : 0xC0 ≤ a) (hhi : a ≤ 0xFF) : s.readPort (BitVec.ofNat 8 a) = 0 := by
  unfold State.readPort
  rw [if_neg, if_neg, if_neg] <;> rw [address_lt_iff hhi] <;> simp <;> omega

/-- A raw word is the quotient times the divisor plus the remainder, whatever the divisor of its address (R45). -/
theorem State.readPort_scaled {d : Nat} (ha : a < 0x40) (hd : divisor (BitVec.ofNat 8 a) = d) (hpos : 0 < d) :
    (s.readPort (BitVec.ofNat 8 a)).toNat =
      (s.readPort (BitVec.ofNat 8 (0x40 + a))).toNat * d + (s.readPort (BitVec.ofNat 8 (0x80 + a))).toNat ∧
    (s.readPort (BitVec.ofNat 8 (0x80 + a))).toNat < d := by
  rw [s.readPort_quotient ha, s.readPort_remainder ha, hd]
  exact ⟨(Nat.div_add_mod' _ _).symm, Nat.mod_lt _ hpos⟩

/-- A reserved address of the raw window reads 0 (R41). -/
theorem State.readPort_reserved
    (ha : (0x0D ≤ a ∧ a ≤ 0x0F) ∨ (0x2C ≤ a ∧ a ≤ 0x2F) ∨ (0x35 ≤ a ∧ a ≤ 0x3F)) :
    s.readPort (BitVec.ofNat 8 a) = 0 := by
  rw [s.readPort_raw (by omega)]
  rcases ha with ⟨hlo, hhi⟩ | ⟨hlo, hhi⟩ | ⟨hlo, hhi⟩ <;> interval_cases a <;> rfl

/-- The raw registers of a string channel, at any of the four channels (R41). -/
theorem State.readPort_string {k : Nat} {c : StringRegs}
    (hc : [s.reading.string1, s.reading.string2, s.reading.string3, s.reading.string4][k]? = some c) :
    s.readPort (BitVec.ofNat 8 (0x10 + 4 * k)) = c.v.setWidth 32 ∧
    s.readPort (BitVec.ofNat 8 (0x11 + 4 * k)) = c.i.setWidth 32 ∧
    s.readPort (BitVec.ofNat 8 (0x12 + 4 * k)) = c.p ∧
    s.readPort (BitVec.ofNat 8 (0x13 + 4 * k)) = 0#32 := by
  match k, hc with
  | 0, rfl | 1, rfl | 2, rfl | 3, rfl => exact ⟨rfl, rfl, rfl, rfl⟩

/-- The raw registers of a phase channel, at any of the three channels (R41). -/
theorem State.readPort_phase {j : Nat} {c : PhaseRegs}
    (hc : [s.reading.phase1, s.reading.phase2, s.reading.phase3][j]? = some c) :
    s.readPort (BitVec.ofNat 8 (0x20 + 4 * j)) = c.v.setWidth 32 ∧
    s.readPort (BitVec.ofNat 8 (0x21 + 4 * j)) = c.i.setWidth 32 ∧
    s.readPort (BitVec.ofNat 8 (0x22 + 4 * j)) = c.f.setWidth 32 ∧
    s.readPort (BitVec.ofNat 8 (0x23 + 4 * j)) = c.p := by
  match j, hc with
  | 0, rfl | 1, rfl | 2, rfl => exact ⟨rfl, rfl, rfl, rfl⟩

/-- The registers outside the channels at their addresses, before the number of each is taken (R41). -/
theorem State.readPort_scalars :
    [0x01, 0x02, 0x03, 0x04, 0x06, 0x07, 0x08, 0x09, 0x0A, 0x0B, 0x0C, 0x30, 0x31, 0x32, 0x33, 0x34].map
      (fun a : Nat => s.readPort (BitVec.ofNat 8 a)) =
      [s.crc.setWidth 32, s.flen.setWidth 32, s.crcExp.setWidth 32, s.crcRcv.setWidth 32,
        s.reading.tsYear.setWidth 32, s.reading.tsYY.setWidth 32, s.reading.tsMon.setWidth 32,
        s.reading.tsDay.setWidth 32, s.reading.tsHour.setWidth 32, s.reading.tsMin.setWidth 32,
        s.reading.tsSec.setWidth 32, s.reading.gridP.setWidth 32, s.reading.temp.setWidth 32,
        s.reading.eDay.setWidth 32, s.reading.eTotal, s.reading.hTotal.setWidth 32] := rfl

/-- STATUS as a number: `ILLEGAL` stands above the three bits of `RESULT` (R42). -/
theorem statusWord_toNat : (statusWord s).toNat = s.result.toNat + if s.illegal then 8 else 0 := by
  have hlow : (s.result.setWidth 32).toNat = s.result.toNat := BitVec.toNat_setWidth_of_le (by decide)
  rw [statusWord, BitVec.toNat_or, hlow]
  cases s.illegal with
  | false => exact Nat.or_zero _
  | true => rw [Nat.or_comm, if_pos rfl, Nat.add_comm]; exact (Nat.two_pow_add_eq_or_of_lt s.result.isLt 1).symm

/-- A flag word holds its flag at its bit and nothing else (R43). -/
theorem flagBit_getLsbD {n : Nat} (hn : n < 32) (f : Bool) (k : Nat) :
    (flagBit n f).getLsbD k = (decide (k = n) && f) := by
  by_cases hk : k = n
  · simp [flagBit, hk, hn]
  · by_cases hlt : k < n
    · simp [flagBit, hk, hlt]
    · have : k - n ≠ 0 := by omega
      simp [flagBit, hk, this]

/-- PRESENT, bit by bit (R43). -/
theorem presentWord_getLsbD (r : Reading) (n : Nat) : (presentWord r).getLsbD n =
    [r.string1.present, r.string2.present, r.string3.present, r.string4.present, r.phase1.present,
      r.phase2.present, r.phase3.present].getD n false := by
  simp only [presentWord, BitVec.getLsbD_or, flagBit_getLsbD, Nat.reduceLT]
  match n with
  | 0 | 1 | 2 | 3 | 4 | 5 | 6 => simp
  | n + 7 => simp

end ReadPort

/-- Settles O48, window by window. -/
theorem readPortWindows : Obligations.ReadPortWindows :=
  fun s _ => ⟨fun ha => ⟨s.readPort_quotient ha, s.readPort_remainder ha⟩, s.readPort_beyond⟩

/-- Settles O49: the registers behind the raw window, zero-extended, as numbers. -/
theorem registerMap : Obligations.RegisterMap := by
  intro s
  have hscalars := s.readPort_scalars
  simp only [List.map_cons, List.map_nil, List.cons.injEq, and_true] at hscalars
  refine ⟨?_, ?_, fun k c hc => ?_, fun j c hc => ?_, ?_, fun a ha => ?_⟩
  · simp only [hscalars, BitVec.toNat_setWidth_of_le, Nat.reduceLeDiff]
  · simp only [hscalars, BitVec.toNat_setWidth_of_le, Nat.reduceLeDiff]
  · obtain ⟨hv, hi, hp, hreserved⟩ := s.readPort_string hc
    simp only [hv, hi, hp, hreserved, BitVec.toNat_setWidth_of_le, Nat.reduceLeDiff, BitVec.toNat_zero,
      and_self]
  · obtain ⟨hv, hi, hf, hp⟩ := s.readPort_phase hc
    simp only [hv, hi, hf, hp, BitVec.toNat_setWidth_of_le, Nat.reduceLeDiff, and_self]
  · simp only [hscalars, BitVec.toNat_setWidth_of_le, Nat.reduceLeDiff]
  · simp [s.readPort_reserved ha]

/-- Settles O50: the divisors are those of the three lists. -/
theorem scaledWindowDivisors : Obligations.ScaledWindowDivisors := by
  intro s
  refine ⟨fun a ha => ?_, fun a ha => ?_, fun a ha => ?_⟩
  · obtain ⟨hlt, hd⟩ : a < 0x40 ∧ divisor (BitVec.ofNat 8 a) = 10 := by revert a; decide
    exact s.readPort_scaled hlt hd (by decide)
  · obtain ⟨hlt, hd⟩ : a < 0x40 ∧ divisor (BitVec.ofNat 8 a) = 100 := by revert a; decide
    exact s.readPort_scaled hlt hd (by decide)
  · obtain ⟨hlt, hd⟩ : a < 0x40 ∧ divisor (BitVec.ofNat 8 a) = 1 := by revert a; decide
    exact s.readPort_scaled hlt hd (by decide)

/-- Settles O51; the bound on the low bits is the invariant's on `RESULT`. -/
theorem statusWordFields : Obligations.StatusWordFields := by
  intro s
  have hstatus : (s.readPort 0x00).toNat = s.result.toNat + if s.illegal then 8 else 0 := statusWord_toNat s
  refine ⟨hstatus, fun hinv => ?_⟩
  have hlegal := hinv.resultLegal
  rw [hstatus]
  split <;> omega

/-- Settles O52. The word after reset is closed. -/
theorem presentWordBits : Obligations.PresentWordBits :=
  ⟨rfl, fun s n => presentWord_getLsbD s.reading n⟩

end Sys2Proof.Machine
end

section
/-! Reset: every register at its value of R38, and what the read port then shows. -/

namespace Sys2Proof.Machine

/-- Settles O11: the next state is `hostReset`, whose fields are those of the reset state. -/
theorem resetSetsEveryRegister : Obligations.ResetSetsEveryRegister :=
  fun s => ⟨s.hostReset, rfl, rfl, rfl, rfl, rfl, rfl, rfl, rfl, rfl, rfl, rfl, rfl⟩

/-- The raw window after reset: `CRC` alone is not 0 (R38). -/
theorem rawReg_reset (b : Byte) : rawReg State.reset b = if b = 0x01 then 0xFFFF else 0 := by
  revert b
  decide

/-- The raw window after reset, away from `CRC`. -/
theorem readPort_reset_raw {n : Nat} (hn : n < 0x40) (h1 : n ≠ 1) :
    State.reset.readPort (BitVec.ofNat 8 n) = 0 := by
  have hne : BitVec.ofNat 8 n ≠ (0x01 : Byte) := by
    rw [ne_eq, ← BitVec.toNat_inj, BitVec.toNat_ofNat, Nat.mod_eq_of_lt (by omega)]
    exact h1
  rw [State.readPort_raw _ hn, rawReg_reset, if_neg hne]

/-- The read image after reset by address: the raw window, its quotients and remainders (all of 0 but for `CRC`, whose
divisor is 1), and the addresses above. -/
theorem readPort_reset {n : Nat} (hn : n ≤ 0xFF) :
    State.reset.readPort (BitVec.ofNat 8 n) = if n = 0x01 ∨ n = 0x41 then 0xFFFF else 0 := by
  by_cases hcrc : n = 0x01 ∨ n = 0x41 ∨ n = 0x81
  · rcases hcrc with rfl | rfl | rfl <;> rfl
  rw [if_neg (by omega)]
  obtain hraw | ⟨b, hb, rfl⟩ | ⟨b, hb, rfl⟩ | hbeyond :
      n < 0x40 ∨ (∃ b < 0x40, n = 0x40 + b) ∨ (∃ b < 0x40, n = 0x80 + b) ∨ 0xC0 ≤ n := by
    by_cases h1 : n < 0x40
    · exact .inl h1
    by_cases h2 : n < 0x80
    · exact .inr (.inl ⟨n - 0x40, by omega, by omega⟩)
    by_cases h3 : n < 0xC0
    · exact .inr (.inr (.inl ⟨n - 0x80, by omega, by omega⟩))
    · exact .inr (.inr (.inr (by omega)))
  · exact readPort_reset_raw hraw (by omega)
  · apply BitVec.eq_of_toNat_eq
    rw [State.readPort_quotient _ hb, readPort_reset_raw hb (by omega)]
    exact Nat.zero_div _
  · apply BitVec.eq_of_toNat_eq
    rw [State.readPort_remainder _ hb, readPort_reset_raw hb (by omega)]
    exact Nat.zero_mod _
  · exact State.readPort_beyond _ hbeyond hn

/-- Settles O12, from the read image by address as a number. -/
theorem resetReadImage : Obligations.ResetReadImage := by
  intro a
  have ha := a.isLt
  have himage := readPort_reset (n := a.toNat) (by omega)
  rw [BitVec.ofNat_toNat, BitVec.setWidth_eq] at himage
  rw [himage]
  simp only [← BitVec.toNat_inj, BitVec.reduceToNat]

end Sys2Proof.Machine
end

section
/-! The host's interactions in host order: what a step takes from the queue, that no interaction looks at what is still
waiting, and reads (20_memory.md R57, R62; 40_control.md R90). -/

namespace Sys2Proof.Machine

/-- A step takes the front of the queue and performs it (R62, R66). -/
theorem step_of_inputs {s : State} {x : Interaction} {rest : List Interaction} (hin : s.inputs = x :: rest) :
    step s = perform x (s.takeInput rest) := by
  rw [step, stepInput, hin]

/-- A legal word runs its command (R90). -/
theorem perform_command_of_decode {w : Half} {i : Instr} (hdec : decode w = .ok i) (s : State) :
    perform (.command w) s = exec i s := by
  rw [perform, issue, hdec]

/-- The word that a read gave the host is in no register that the read port shows (R57, log 5). -/
@[simp] theorem State.readPort_hostRead (s : State) (a b : Byte) : (s.hostRead a).readPort b = s.readPort b := rfl

/-! No interaction looks at the queue: with any other list waiting it answers the same state but for that list. -/

/-- The verdict of FRAME.DECODE does not depend on the queue. -/
theorem State.decodeWith_takeInput (s : State) (exp rcv : Half) (q : List Interaction) :
    (s.takeInput q).decodeWith exp rcv = (s.decodeWith exp rcv).takeInput q := by
  unfold State.decodeWith
  rw [State.takeInput_flen, State.takeInput_fb, State.takeInput_offsetBias]
  split_ifs <;> rfl

/-- A command finishes, and does the same whatever is waiting (R90). -/
theorem exec_takeInput (i : Instr) (s : State) :
    ∃ t : State, ∀ q : List Interaction, exec i (s.takeInput q) = .next (t.takeInput q) := by
  cases i with
  | nop => exact ⟨s, fun _ => rfl⟩
  | crcInit => exact ⟨s.setCrc Config.crcInit, fun _ => rfl⟩
  | crcByte b => exact ⟨s.setCrc (crcByte s.crc b), fun _ => rfl⟩
  | frameClear => exact ⟨s.clearFrame, fun _ => rfl⟩
  | framePush b => exact ⟨s.pushByte b, fun _ => rfl⟩
  | frameDecode =>
    refine ⟨s.decodeWith (computeCrc16 (payloadOf s.fb)) (receivedCrc s.fb), fun q => ?_⟩
    rw [← State.decodeWith_takeInput]
    exact execFrameDecode_eq (s.takeInput q)

/-- So does every interaction (R59, R62). -/
theorem perform_takeInput (x : Interaction) (s : State) :
    ∃ t : State, ∀ q : List Interaction, perform x (s.takeInput q) = .next (t.takeInput q) := by
  cases x with
  | command w =>
    cases hdec : decode w with
    | ok i => simpa only [perform_command_of_decode hdec] using exec_takeInput i s
    | error e => exact ⟨s.raiseIllegalCommand, fun q => by rw [perform, issue, hdec]; rfl⟩
  | read a => exact ⟨s.hostRead a, fun _ => rfl⟩
  | reset => exact ⟨s.hostReset, fun _ => rfl⟩

/-- A run whose first step answers a next state goes on from that state. -/
theorem run_succ_of_step {M : Host.Core} {s t : M.State} (h : M.step s = .next t) (k : Nat) :
    M.run (k + 1) s = M.run k t := by
  rw [Host.Core.run, h]

/-- Settles O15, by induction on the list: the first interaction does the same with the others still in the queue as
with `rest` alone in it, and what follows is the run of the others from there. -/
theorem runFollowsHostOrder : Obligations.RunFollowsHostOrder := by
  intro xs rest
  induction xs with
  | nil => exact fun s => ⟨s.takeInput rest, rfl, rfl⟩
  | cons x xs ih =>
    intro s
    obtain ⟨u, hu⟩ := perform_takeInput x s
    obtain ⟨t, hall, hrun⟩ := ih u
    have hstep : core.step (s.takeInput (x :: xs ++ rest)) = .next (u.takeInput (xs ++ rest)) := hu (xs ++ rest)
    exact ⟨t, (performAll_cons_next (hu rest)).trans hall, (run_succ_of_step hstep xs.length).trans hrun⟩

/-- Settles O7: the step performs the word at the front of the queue, and performing it is running its command. -/
theorem stepRunsTheDecodedCommand : Obligations.StepRunsTheDecodedCommand :=
  fun s _ rest _ hin hdec => (step_of_inputs hin).trans (perform_command_of_decode hdec (s.takeInput rest))

/-- Settles O10: the step performs the read, and the second of two reads finds the registers as the first did. -/
theorem readChangesNoRegister : Obligations.ReadChangesNoRegister := by
  intro s a
  refine ⟨fun rest hin => step_of_inputs hin, ?_⟩
  calc performAll [.read a, .read a] s
      = .next ((s.hostRead a).hostRead a) := rfl
    _ = .next ((s.hostRead a).reply (s.readPort a)) := by rw [State.hostRead, State.readPort_hostRead]

end Sys2Proof.Machine
end

section
/-! The encoding (30_encoding.md R71 to R76): the decoder undoes the encoder, the legal words are the command words,
and the rows of the opcode map lie apart. -/

namespace Sys2Proof

/-- Every command decodes from its own word, with every operand byte (R71 to R73). -/
@[simp] theorem decode_encode (i : Instr) : decode (encode i) = .ok i := by
  cases i <;> simp [encode, decode_mkWord]

/-- Settles O1, command by command with the operand byte left free. -/
theorem decodeOfEncode : Obligations.DecodeOfEncode := decode_encode

/-- A word decodes to a command exactly when it is the command's word (R76). -/
theorem decode_eq_ok_iff {w : Half} {i : Instr} : decode w = .ok i ↔ w = encode i :=
  ⟨eq_encode_of_decode, fun h => h ▸ decode_encode i⟩

/-- No two commands share a word (R73). -/
theorem encode_injective : Function.Injective encode := fun i _ h =>
  Except.ok.inj ((decode_encode i).symm.trans (decode_eq_ok_iff.mpr h))

/-- Settles O2: the decoder's answer says which side holds, and the decoder undoes the encoder. -/
theorem everyWordIsOneCommandOrIllegal : Obligations.EveryWordIsOneCommandOrIllegal := by
  intro w
  cases hdec : decode w with
  | ok i =>
    obtain rfl := eq_encode_of_decode hdec
    exact .inl ⟨i, rfl, rfl, fun _ hj => encode_injective hj⟩
  | error e =>
    refine .inr ⟨e, rfl, ?_⟩
    rintro j rfl
    simp at hdec

/-- Settles O6: each of the six words is the word of its command. -/
theorem sampleWordsDecode : Obligations.SampleWordsDecode :=
  ⟨decode_encode .nop, decode_encode .crcInit, decode_encode (.crcByte 0x7F), decode_encode .frameClear,
    decode_encode (.framePush 0xAA), decode_encode .frameDecode⟩

/-- A word decodes to a command exactly when it passes the legality check (R74). -/
theorem exists_decode_iff_legal (w : Half) : (∃ i, decode w = .ok i) ↔ legal w = true := by
  refine ⟨?_, exists_decode_of_legal⟩
  rintro ⟨i, hdec⟩
  exact eq_encode_of_decode hdec ▸ legal_encode i

/-- The decoder answers a command exactly when it finds a row that matches (R73, R74). -/
theorem exists_decode_iff_exists_row (w : Half) :
    (∃ i, decode w = .ok i) ↔ ∃ r ∈ opcodeTable, rowMatches r w = true := by
  unfold decode
  cases hfind : opcodeTable.find? (rowMatches · w) with
  | none =>
    have hnone : ¬ ∃ r ∈ opcodeTable, rowMatches r w = true := by simpa using hfind
    refine iff_of_false ?_ hnone
    rintro ⟨i, hi⟩
    dsimp only at hi
    split at hi <;> cases hi
  | some r =>
    exact iff_of_true ⟨_, rfl⟩ ⟨r, List.mem_of_find?_eq_some hfind, List.find?_some (p := (rowMatches · w)) hfind⟩

/-- The legality check in terms of the word as a number (R74). -/
theorem legal_iff_toNat (w : Half) : legal w = true ↔
    w.toNat / 256 = 0x02 ∨ w.toNat / 256 = 0x11 ∨
      ((w.toNat / 256 = 0x00 ∨ w.toNat / 256 = 0x01 ∨ w.toNat / 256 = 0x10 ∨ w.toNat / 256 = 0x12) ∧
        w.toNat % 256 = 0) := by
  have himm := (Machine.imm8Field w).isLt
  have hdiv : w.toNat / 256 = (Machine.opField w).toNat := by
    rw [← mkWord_fields w, mkWord_toNat, opField_mkWord]; omega
  have hmod : w.toNat % 256 = (Machine.imm8Field w).toNat := by
    rw [← mkWord_fields w, mkWord_toNat, imm8Field_mkWord]; omega
  rw [hdiv, hmod, ← mkWord_fields w, legal_mkWord]
  simp [← BitVec.toNat_inj, or_assoc]

/-- A word that the legality check rejects sets `ILLEGAL` and nothing else (R205). -/
theorem perform_command_of_not_legal {w : Half} (h : ¬ legal w = true) (s : Machine.State) :
    Machine.perform (.command w) s = .next s.raiseIllegalCommand := by
  cases hdec : decode w with
  | ok i => exact absurd ((exists_decode_iff_legal w).mp ⟨i, hdec⟩) h
  | error e => rw [Machine.perform, Machine.issue, hdec]

/-- Settles O3: each of the four conditions is the legality check. -/
theorem legalWordsAreTheCommandWords : Obligations.LegalWordsAreTheCommandWords := by
  intro w op imm isLegal
  have hlegal : legal w = true ↔ isLegal := legal_iff_toNat w
  have hdecodes : (∃ i, decode w = .ok i) ↔ isLegal := (exists_decode_iff_legal w).trans hlegal
  exact ⟨hdecodes, hlegal, hdecodes.symm.trans (exists_decode_iff_exists_row w),
    fun hnot => perform_command_of_not_legal (hlegal.not.mpr hnot)⟩

/-- Settles O4: no row matches, so the decoder answers by the opcode alone. -/
theorem illegalWordsRejectedByName : Obligations.IllegalWordsRejectedByName := by
  intro op imm
  rw [decode_mkWord]
  constructor
  · intro hop
    simp only [List.mem_cons, List.not_mem_nil, or_false, not_or] at hop
    simp [hop]
  · intro hop himm
    simp only [List.mem_cons, List.not_mem_nil, or_false] at hop
    rcases hop with rfl | rfl | rfl | rfl <;> simpa using himm

/-- Every mask covers the opcode, so a word that a row matches has the row's opcode (R73). -/
theorem opField_of_rowMatches {r : OpcodeRow} {w : Half} (hr : r ∈ opcodeTable) (h : rowMatches r w = true) :
    rowOpcode r = Machine.opField w := by
  have hmask : ∀ r ∈ opcodeTable, Machine.opField r.mask = BitVec.allOnes 8 := by
    simp [opcodeTable, Machine.opField]
  have hmatch : w &&& r.mask = r.pattern := by simpa [rowMatches] using h
  calc rowOpcode r = Machine.opField (w &&& r.mask) := by rw [rowOpcode, hmatch]
    _ = Machine.opField w &&& Machine.opField r.mask := BitVec.extractLsb'_and
    _ = Machine.opField w := by rw [hmask r hr, BitVec.and_allOnes]

/-- Settles O5: the rows that match a word share its opcode, and no opcode stands in two rows. -/
theorem atMostOneRowMatches : Obligations.AtMostOneRowMatches := by
  intro w
  have hnodup : (opcodeTable.map rowOpcode).Nodup := by decide
  have hsame : ∀ op ∈ (opcodeTable.filter (rowMatches · w)).map rowOpcode, op = Machine.opField w := by
    simp only [List.mem_map, List.mem_filter]
    rintro _ ⟨r, ⟨hr, hmatch⟩, rfl⟩
    exact opField_of_rowMatches hr hmatch
  have hdistinct : ((opcodeTable.filter (rowMatches · w)).map rowOpcode).Nodup :=
    hnodup.sublist (List.filter_sublist.map rowOpcode)
  rw [List.eq_replicate_of_mem hsame, List.nodup_replicate, List.length_map] at hdistinct
  exact hdistinct

end Sys2Proof
end

section
/-! Runs of commands: the CRC of a sequence (30_encoding.md R79, 41_crc.md R102 to R106, 70_reset_and_hazards.md R225)
and a frame loaded into the buffer (R80, 42_frame.md R120, R124). -/

namespace Sys2Proof.Machine

/-- `n` rounds in a row are `n` iterations of one (R102). -/
theorem crcRounds_eq_iterate (n : Nat) (t : Half) : crcRounds n t = crcRound^[n] t := by
  induction n generalizing t with
  | zero => rfl
  | succ n ih => rw [crcRounds, ih, Function.iterate_succ_apply]

/-- Settles O18: the word is the command's own, and the fold is eight rounds. -/
theorem crcByteFoldsOneByte : Obligations.CrcByteFoldsOneByte := by
  refine ⟨fun w b => ?_, fun s b => ?_⟩
  · rw [decode_eq_ok_iff, ← BitVec.toNat_inj, encode, mkWord_toNat]
    rfl
  · rw [← crcRounds_eq_iterate]
    rfl

@[simp] theorem issueCommands_length (is : List Instr) : (issueCommands is).length = is.length :=
  List.length_map _

@[simp] theorem runCommands_nil (s : State) : runCommands [] s = .next s := rfl

/-- A run of commands goes on from the state that the first of them answers (R62, R90). -/
theorem runCommands_cons {i : Instr} {s t : State} (h : exec i s = .next t) (is : List Instr) :
    runCommands (i :: is) s = runCommands is t :=
  performAll_cons_next ((perform_command_of_decode (decode_encode i) s).trans h)

/-- CRC.BYTE over a sequence folds the bytes into the accumulator, from whatever it holds (R106, R225). -/
theorem runCommands_crcBytes (bs : List Byte) (s : State) :
    runCommands (bs.map .crcByte) s = .next (s.setCrc (crcFold s.crc bs)) := by
  induction bs generalizing s with
  | nil => rfl
  | cons b bs ih =>
    rw [List.map_cons, runCommands_cons (t := s.setCrc (crcByte s.crc b)) rfl, ih]
    rfl

/-- Settles O24: the bytes fold from the 0xFFFF of CRC.INIT, and later bytes fold on from there. -/
theorem crcSequenceComputesCrc : Obligations.CrcSequenceComputesCrc := by
  intro bs cs s
  refine ⟨rfl, by simp, ?_, ?_⟩
  · rw [runCommands_cons (t := s.setCrc Config.crcInit) rfl, runCommands_crcBytes]
    rfl
  · rw [runCommands_crcBytes, computeCrc16, computeCrc16, crcFold_append]
    rfl

/-- The state after a sequence of pushes, index 0 first. -/
def State.pushBytes (s : State) (bs : List Byte) : State := bs.foldl State.pushByte s

@[simp] theorem State.pushBytes_nil (s : State) : s.pushBytes [] = s := rfl

@[simp] theorem State.pushBytes_cons (s : State) (b : Byte) (bs : List Byte) :
    s.pushBytes (b :: bs) = (s.pushByte b).pushBytes bs := rfl

/-- FRAME.PUSH over a sequence pushes its bytes in order (R124). -/
theorem runCommands_framePushes (bs : List Byte) (s : State) :
    runCommands (bs.map .framePush) s = .next (s.pushBytes bs) := by
  induction bs generalizing s with
  | nil => rfl
  | cons b bs ih => rw [List.map_cons, runCommands_cons (t := s.pushByte b) rfl, ih, State.pushBytes_cons]

/-- The commands of FRAME.LOAD clear the frame and push the bytes (R80). -/
theorem runCommands_frameLoad (bs : List Byte) (s : State) :
    runCommands (.frameClear :: bs.map .framePush) s = .next (s.clearFrame.pushBytes bs) := by
  rw [runCommands_cons (t := s.clearFrame) rfl, runCommands_framePushes]

/-- The count after a sequence of pushes saturates at 0xFFFF (R124). -/
theorem State.pushBytes_flen_toNat (s : State) (bs : List Byte) :
    (s.pushBytes bs).flen.toNat = min (s.flen.toNat + bs.length) 0xFFFF := by
  induction bs generalizing s with
  | nil =>
    have := s.flen.isLt
    rw [State.pushBytes_nil, List.length_nil]
    omega
  | cons b bs ih =>
    rw [State.pushBytes_cons, ih, State.pushByte_flen_toNat, List.length_cons]
    omega

/-- Every byte of the buffer after a sequence of pushes: from `FLEN` up to 153 the pushed ones in order, as far as
they go; each other as it was (R124). -/
theorem State.pushBytes_read (s : State) (bs : List Byte) (k : Nat) (h : Memory.wf s.fb = true) :
    (s.pushBytes bs).fb.read k =
      if s.flen.toNat ≤ k ∧ k < Config.fbCap then bs[k - s.flen.toNat]?.getD (s.fb.read k) else s.fb.read k := by
  induction bs generalizing s with
  | nil => simp
  | cons b bs ih =>
    have hflen := s.pushByte_flen_toNat b
    rw [State.pushBytes_cons, ih _ (s.pushByte_wf b h), s.pushByte_read b k h, hflen]
    have hfb : Config.fbCap = 153 := rfl
    by_cases hcap : k < Config.fbCap
    · rcases lt_trichotomy k s.flen.toNat with hk | rfl | hk
      · have hlow : ¬ s.flen.toNat ≤ k := by omega
        have hlow' : ¬ min (s.flen.toNat + 1) 0xFFFF ≤ k := by omega
        simp [hlow, hlow', hk.ne]
      · have hlow' : ¬ min (s.flen.toNat + 1) 0xFFFF ≤ s.flen.toNat := by omega
        simp [hlow', hcap]
      · have hsub : k - s.flen.toNat = k - min (s.flen.toNat + 1) 0xFFFF + 1 := by omega
        have hhigh : min (s.flen.toNat + 1) 0xFFFF ≤ k := by omega
        simp only [hcap, hk.le, hhigh, hk.ne', false_and, and_self, if_true, if_false, hsub,
          List.getElem?_cons_succ]
    · have hnot : ¬ (k = s.flen.toNat ∧ s.flen.toNat < Config.fbCap) := by omega
      simp only [hcap, hnot, and_false, if_false]

/-- The frame of a sequence of pushes: only `FB` and `FLEN` can change (R124). -/
theorem State.pushBytes_frame (s : State) (bs : List Byte) :
    s.pushBytes bs = { s with fb := (s.pushBytes bs).fb, flen := (s.pushBytes bs).flen } := by
  induction bs generalizing s with
  | nil => rfl
  | cons b bs ih => exact ih (s.pushByte b)

/-- Settles O28: FRAME.CLEAR sets the count to 0, and the pushes fill the buffer from there. -/
theorem frameLoadFillsBuffer : Obligations.FrameLoadFillsBuffer := by
  intro bs s hwf
  have hread : ∀ i : Nat, (s.clearFrame.pushBytes bs).fb.read i =
      if i < 153 then bs[i]?.getD (s.fb.read i) else s.fb.read i := by
    intro i
    simpa using s.clearFrame.pushBytes_read bs i hwf
  refine ⟨rfl, by simp, s.clearFrame.pushBytes bs, runCommands_frameLoad bs s, ?_, fun i hi => ?_, fun i hi => ?_,
    s.clearFrame.pushBytes_frame bs⟩
  · simpa using s.clearFrame.pushBytes_flen_toNat bs
  · have hlen : i < bs.length := by omega
    rw [hread, if_pos (by omega), List.getElem?_eq_getElem hlen, Option.getD_some]
  · rw [hread]
    split
    · rw [List.getElem?_eq_none (by omega), Option.getD_none]
    · rfl

end Sys2Proof.Machine
end

section
/-! The assembler's range check (30_encoding.md R78, R83). -/

namespace Sys2Proof.Machine

/-- A well-formed line assembles to its interactions (R78). -/
theorem assembleLine_of_wellFormed {l : SourceLine} (h : l.wellFormed = true) :
    assembleLine l = .ok (lineInteractions l) := if_pos h

/-- A line that is not well formed encodes nothing (R78). -/
theorem assembleLine_of_not_wellFormed {l : SourceLine} (h : ¬ l.wellFormed = true) :
    assembleLine l = .error .illFormed := if_neg h

/-- A line of a name with one operand is well formed when it has that one, in range (R78, R83). -/
theorem wellFormed_iff_of_arity_one {name : Mnemonic} (harity : name.arity = some 1) (ns : List Nat) :
    (SourceLine.mk name ns none).wellFormed = true ↔ ∃ n, ns = [n] ∧ n ≤ name.operandMax := by
  simp only [SourceLine.wellFormed, SourceLine.countOk, SourceLine.rangeOk, SourceLine.expectedOk, harity,
    Bool.and_true, Bool.and_eq_true, beq_iff_eq, List.length_eq_one_iff]
  constructor
  · rintro ⟨⟨n, rfl⟩, hrange⟩
    exact ⟨n, rfl, by simpa using hrange⟩
  · rintro ⟨n, rfl, hn⟩
    exact ⟨⟨n, rfl⟩, by simpa using hn⟩

/-- A line that is one command with a byte operand assembles, in range, to a word that decodes to it (R78). -/
theorem assembleLine_byte_command {name : Mnemonic} {build : Byte → Instr} (harity : name.arity = some 1)
    (hexpand : ∀ b : Byte, expandCommands name [b] = some [build b]) {n : Nat} (hn : n ≤ name.operandMax) :
    ∃ w : Half, assembleLine ⟨name, [n], none⟩ = .ok [.command w] ∧ decode w = .ok (build (BitVec.ofNat 8 n)) := by
  refine ⟨encode (build (BitVec.ofNat 8 n)), ?_, decode_encode _⟩
  rw [assembleLine_of_wellFormed ((wellFormed_iff_of_arity_one harity _).mpr ⟨n, rfl, hn⟩), lineInteractions]
  simp [hexpand, issueCommands]

/-- Settles O59: on names with one operand the assembler accepts what `wellFormed_iff_of_arity_one` says. -/
theorem assemblerAcceptsExactlyTheRange : Obligations.AssemblerAcceptsExactlyTheRange := by
  refine ⟨fun ns => ⟨?_, ?_, fun hnot => ?_⟩, fun n => ⟨fun hn => ?_, fun hn => ?_⟩⟩
  · rintro n rfl hn
    exact assembleLine_byte_command rfl (fun _ => rfl) (Nat.le_of_lt_succ hn)
  · rintro n rfl hn
    exact assembleLine_byte_command rfl (fun _ => rfl) (Nat.le_of_lt_succ hn)
  · have refused {name : Mnemonic} (harity : name.arity = some 1) (hmax : name.operandMax = 0xFF) :
        assembleLine ⟨name, ns, none⟩ = .error .illFormed := by
      refine assembleLine_of_not_wellFormed fun hwf => hnot ?_
      obtain ⟨n, hns, hn⟩ := (wellFormed_iff_of_arity_one harity ns).mp hwf
      exact ⟨n, hns, by omega⟩
    exact ⟨refused rfl rfl, refused rfl rfl⟩
  · exact assembleLine_of_wellFormed ((wellFormed_iff_of_arity_one rfl _).mpr ⟨n, rfl, Nat.le_of_lt_succ hn⟩)
  · refine assembleLine_of_not_wellFormed fun hwf => ?_
    obtain ⟨m, hm, hle⟩ := (wellFormed_iff_of_arity_one rfl _).mp hwf
    obtain rfl := List.singleton_inj.mp hm
    exact absurd hle (Nat.not_le.mpr hn)

end Sys2Proof.Machine
end

section
/-! Every step finishes (40_control.md R90), and the command that has no effect (40_control.md R91). -/

namespace Sys2Proof.Machine

/-- No step writes the bias of the field offsets: it is a field of the state that every effect leaves (log 4). -/
theorem StepEffect.offsetBias_eq {s t : State} (h : StepEffect s t) : t.offsetBias = s.offsetBias := by
  cases h with
  | idle | nop | crcInit | crcByte | frameClear | framePush | illegal | read | reset => rfl
  | frameDecode => simp

/-- A step finishes and takes exactly the front of the queue, where there is one (R57, R90, R220). -/
theorem exists_step_next (s : State) : ∃ t : State, step s = .next t ∧ t.inputs = s.inputs.tail := by
  rcases step_cases s with ⟨hin, hstep⟩ | ⟨x, rest, hin, hstep⟩
  · exact ⟨s, hstep, by rw [hin, List.tail_nil]⟩
  · obtain ⟨t, ht⟩ := perform_takeInput x s
    exact ⟨t.takeInput rest, hstep.trans (ht rest), by rw [State.takeInput_inputs, hin, List.tail_cons]⟩

/-- Settles O14: the step finishes, and whatever it was it left the bias alone. -/
theorem everyStepFinishes : Obligations.EveryStepFinishes := by
  intro s
  obtain ⟨t, hstep, hinputs⟩ := exists_step_next s
  exact ⟨t, hstep, hinputs, (stepEffect_of_step hstep).offsetBias_eq⟩

/-- A command without an operand byte is illegal with an immediate that is not 0 (R74, R205). -/
theorem perform_command_of_imm_ne_zero {op imm : Byte} (hop : op ≠ 0x02 ∧ op ≠ 0x11) (himm : imm ≠ 0) (s : State) :
    perform (.command (mkWord op imm)) s = .next { s with illegal := true } := by
  obtain ⟨hnotByte, hnotPush⟩ := hop
  refine perform_command_of_not_legal ?_ s
  rw [legal_mkWord]
  rintro ((h | h) | ⟨-, h⟩)
  · exact hnotByte h
  · exact hnotPush h
  · exact himm h

/-- Settles O16: the word of NOP is 0x0000, and NOP has no operand byte. -/
theorem nopChangesNothing : Obligations.NopChangesNothing :=
  ⟨fun _ => decode_eq_ok_iff, fun _ => rfl, fun s _ hnn => perform_command_of_imm_ne_zero (by decide) hnn s⟩

end Sys2Proof.Machine
end

section
/-! The CRC generator (41_crc.md): one round as a shift register, and the byte's fold as a linear map that loses
nothing. -/

namespace Sys2Proof.Machine

/-- Settles O17: CRC.INIT has no operand byte, and its effect is the one assignment. -/
theorem crcInitSetsAccumulator : Obligations.CrcInitSetsAccumulator :=
  ⟨fun _ => decode_eq_ok_iff, fun s _ hnn => perform_command_of_imm_ne_zero (by decide) hnn s, fun _ => rfl⟩

/-- The bit that a round tests says whether the accumulator is odd (R100). -/
theorem getLsbD_zero_iff_odd (c : Half) : c.getLsbD 0 = true ↔ c.toNat % 2 = 1 := by
  rw [BitVec.getLsbD, Nat.testBit_zero, decide_eq_true_eq]

/-- Settles O19: the logical shift halves. -/
theorem crcRoundHalvesAndXors : Obligations.CrcRoundHalvesAndXors := by
  intro c
  have hhalf : (c >>> 1).toNat = c.toNat / 2 := by
    rw [BitVec.toNat_ushiftRight, Nat.shiftRight_one]
  unfold crcRound
  simp only [getLsbD_zero_iff_odd]
  split
  · rw [BitVec.toNat_xor, hhalf]
    rfl
  · exact hhalf

/-- The bit that a round shifts out comes back at the top, since the polynomial has bit 15 set (R101). -/
theorem crcRound_getLsbD_top (c : Half) : (crcRound c).getLsbD 15 = c.getLsbD 0 := by
  have hshift : (c >>> 1).getLsbD 15 = false := by simp
  have hpoly : Config.crcPoly.getLsbD 15 = true := rfl
  unfold crcRound
  split
  · next hodd => rw [BitVec.getLsbD_xor, hshift, hpoly, hodd, Bool.false_xor]
  · next heven => rw [hshift, Bool.eq_false_of_not_eq_true heven]

/-- Settles O20: the six values are closed. -/
theorem crcRoundCorners : Obligations.CrcRoundCorners :=
  ⟨rfl, rfl, rfl, rfl, rfl, rfl, crcRound_getLsbD_top⟩

/-- Settles O21: a sequence of one byte folds that byte. -/
theorem sequenceCrcFoldsInOrder : Obligations.SequenceCrcFoldsInOrder :=
  ⟨rfl, fun bs b => crcFold_append Config.crcInit bs [b]⟩

/-- A word is known from its lowest bit and the others. -/
theorem eq_of_getLsbD_zero_of_ushiftRight {c d : Half} (hlow : c.getLsbD 0 = d.getLsbD 0)
    (hrest : c >>> 1 = d >>> 1) : c = d := by
  apply BitVec.eq_of_getLsbD_eq
  intro i hi
  cases i with
  | zero => exact hlow
  | succ i =>
    have hbit := congrArg (BitVec.getLsbD · i) hrest
    simpa [Nat.add_comm] using hbit

/-- A round loses nothing: bit 15 of the result tells which way it went, and so the bit shifted out (R101). -/
theorem crcRound_injective : Function.Injective crcRound := by
  intro c d h
  have hlow : c.getLsbD 0 = d.getLsbD 0 := by
    rw [← crcRound_getLsbD_top, h, crcRound_getLsbD_top]
  refine eq_of_getLsbD_zero_of_ushiftRight hlow ?_
  unfold crcRound at h
  rw [hlow] at h
  split at h
  · exact (BitVec.xor_left_inj _).mp h
  · exact h

/-- So do any number of rounds. -/
theorem crcRounds_injective (n : Nat) : Function.Injective (crcRounds n) := by
  have hiterate : crcRounds n = crcRound^[n] := funext (crcRounds_eq_iterate n)
  rw [hiterate]
  exact crcRound_injective.iterate n

/-- Settles O23: the rounds are one-to-one, and so is the XOR before them in each of its sides. -/
theorem crcByteIsInjective : Obligations.CrcByteIsInjective := by
  refine ⟨fun c c' b h => ?_, fun c b b' h => ?_⟩
  · exact (BitVec.xor_left_inj _).mp (crcRounds_injective 8 h)
  · have hwide : b.setWidth 16 = b'.setWidth 16 := (BitVec.xor_right_inj _).mp (crcRounds_injective 8 h)
    simpa using congrArg (BitVec.setWidth 8) hwide

/-- A round is linear over XOR (R100). -/
theorem crcRound_xor (c d : Half) : crcRound (c ^^^ d) = crcRound c ^^^ crcRound d := by
  unfold crcRound
  rw [BitVec.getLsbD_xor, BitVec.ushiftRight_xor_distrib]
  cases c.getLsbD 0 <;> cases d.getLsbD 0
  · rfl
  · exact BitVec.xor_assoc ..
  · show (c >>> 1 ^^^ d >>> 1) ^^^ Config.crcPoly = (c >>> 1 ^^^ Config.crcPoly) ^^^ d >>> 1
    ac_rfl
  · show c >>> 1 ^^^ d >>> 1 = (c >>> 1 ^^^ Config.crcPoly) ^^^ (d >>> 1 ^^^ Config.crcPoly)
    calc c >>> 1 ^^^ d >>> 1
        = (c >>> 1 ^^^ d >>> 1) ^^^ (Config.crcPoly ^^^ Config.crcPoly) := by
          rw [BitVec.xor_self, BitVec.xor_zero]
      _ = (c >>> 1 ^^^ Config.crcPoly) ^^^ (d >>> 1 ^^^ Config.crcPoly) := by ac_rfl

/-- So are any number of rounds. -/
theorem crcRounds_xor (n : Nat) (c d : Half) : crcRounds n (c ^^^ d) = crcRounds n c ^^^ crcRounds n d := by
  induction n generalizing c d with
  | zero => rfl
  | succ n ih => rw [crcRounds, crcRound_xor, ih]; rfl

/-- Rounds that find only zeros at the bit they test shift them out (R100). -/
theorem crcRounds_of_low_zero {n : Nat} {c : Half} (h : ∀ i < n, c.getLsbD i = false) :
    crcRounds n c = c >>> n := by
  induction n generalizing c with
  | zero => simp [crcRounds]
  | succ n ih =>
    have hround : crcRound c = c >>> 1 := by
      rw [crcRound, h 0 (Nat.succ_pos n)]
      rfl
    have hshifted : ∀ i < n, (c >>> 1).getLsbD i = false := by
      intro i hi
      rw [BitVec.getLsbD_ushiftRight]
      exact h (1 + i) (by omega)
    rw [crcRounds, hround, ih hshifted, ← BitVec.shiftRight_add, Nat.add_comm]

/-- A word is its high byte in place XOR its low byte. -/
theorem xor_high_low (c : Half) : c = (c >>> 8 <<< 8) ^^^ (c.setWidth 8).setWidth 16 := by
  apply BitVec.eq_of_getLsbD_eq
  intro i hi
  by_cases hlow : i < 8
  · simp [hlow, hi]
  · have hback : 8 + (i - 8) = i := by omega
    simp [hlow, hi, hback]

/-- The byte step of a CRC by table: the high byte moves down, and onto it goes what the eight rounds make, from 0, of
the low byte and the input byte (R102). -/
theorem crcByte_eq_table (c : Half) (b : Byte) :
    crcByte c b = (c >>> 8) ^^^ crcByte 0x0000#16 (c.setWidth 8 ^^^ b) := by
  have hzero : ∀ i < 8, (c >>> 8 <<< 8).getLsbD i = false := by
    intro i hi
    simp [hi]
  have hdown : c >>> 8 <<< 8 >>> 8 = c >>> 8 := by
    have hc := c.isLt
    apply BitVec.eq_of_toNat_eq
    rw [BitVec.toNat_ushiftRight, BitVec.toNat_shiftLeft, BitVec.toNat_ushiftRight]
    omega
  calc crcByte c b
      = crcRounds 8 ((c >>> 8 <<< 8) ^^^ (c.setWidth 8 ^^^ b).setWidth 16) := by
        rw [BitVec.setWidth_xor, ← BitVec.xor_assoc, ← xor_high_low, crcByte]
    _ = (c >>> 8) ^^^ crcRounds 8 ((c.setWidth 8 ^^^ b).setWidth 16) := by
        rw [crcRounds_xor, crcRounds_of_low_zero hzero, hdown]
    _ = (c >>> 8) ^^^ crcByte 0x0000#16 (c.setWidth 8 ^^^ b) := by rw [crcByte, BitVec.zero_xor]

/-- An accumulator that a zero byte leaves as it is, from the entry of the table at its low byte: the high byte is the
entry's, since nothing else reaches it. -/
theorem eq_of_crcByte_zero_eq {c : Half} (h : crcByte c 0x00 = c) :
    c = (crcByte 0x0000#16 (c.setWidth 8) >>> 8) ^^^ crcByte 0x0000#16 (c.setWidth 8) := by
  have htable : (c >>> 8) ^^^ crcByte 0x0000#16 (c.setWidth 8) = c := by
    rw [crcByte_eq_table] at h
    simpa using h
  have hhigh : c >>> 8 = crcByte 0x0000#16 (c.setWidth 8) >>> 8 := by
    have hgone : c >>> 8 >>> 8 = 0#16 := by
      rw [← BitVec.shiftRight_add, BitVec.ushiftRight_eq_zero le_rfl]
    have hshifted := congrArg (fun x : Half => x >>> 8) htable
    simpa only [BitVec.ushiftRight_xor_distrib, hgone, BitVec.zero_xor] using hshifted.symm
  rw [← hhigh, htable]

/-- Which entries of the table give back the low byte they stand at, by a search of all 256. -/
theorem lowByte_of_table_entry_fixed : ∀ lo : Byte,
    ((crcByte 0x0000#16 lo >>> 8) ^^^ crcByte 0x0000#16 lo).setWidth 8 = lo → lo = 0x00 ∨ lo = 0x01 := by
  decide +kernel

/-- Settles O22: the table leaves only the low bytes 0x00 and 0x01, and its entry gives the high byte of each. -/
theorem zeroByteFixedPoints : Obligations.ZeroByteFixedPoints := by
  intro c
  refine ⟨fun h => ?_, ?_⟩
  · have hc := eq_of_crcByte_zero_eq h
    have hlow := congrArg (BitVec.setWidth 8) hc
    rcases lowByte_of_table_entry_fixed _ hlow.symm with h0 | h1
    · rw [h0] at hc
      exact .inl hc
    · rw [h1] at hc
      exact .inr hc
  · rintro (rfl | rfl) <;> rfl

end Sys2Proof.Machine
end

section
/-! The CRC commands beside the frame commands (41_crc.md R108, 42_frame.md R128). -/

namespace Sys2Proof.Machine

/-- The verdict of FRAME.DECODE does not depend on `CRC` (R128). -/
theorem State.decodeWith_setCrc (s : State) (exp rcv c : Half) :
    (s.setCrc c).decodeWith exp rcv = (s.decodeWith exp rcv).setCrc c := by
  unfold State.decodeWith
  rw [State.setCrc_flen, State.setCrc_fb, State.setCrc_offsetBias]
  split_ifs <;> rfl

/-- A CRC command writes `CRC` alone, by a function of `CRC` alone (R105, R106). -/
theorem exec_crcCommand {i : Instr} {b : Byte} (hi : i ∈ [.crcInit, .crcByte b]) :
    ∃ f : Half → Half, ∀ s : State, exec i s = .next (s.setCrc (f s.crc)) := by
  simp only [List.mem_cons, List.not_mem_nil, or_false] at hi
  rcases hi with rfl | rfl
  · exact ⟨fun _ => Config.crcInit, fun _ => rfl⟩
  · exact ⟨fun c => crcByte c b, fun _ => rfl⟩

/-- A frame command keeps `CRC`, and does the same whatever `CRC` holds (R108, R128). -/
theorem exec_frameCommand {j : Instr} {b : Byte} (hj : j ∈ [.frameClear, .framePush b, .frameDecode]) (s : State) :
    ∃ t : State, exec j s = .next t ∧ t.crc = s.crc ∧
      ∀ c : Half, exec j (s.setCrc c) = .next (t.setCrc c) := by
  simp only [List.mem_cons, List.not_mem_nil, or_false] at hj
  rcases hj with rfl | rfl | rfl
  · exact ⟨s.clearFrame, rfl, rfl, fun _ => rfl⟩
  · exact ⟨s.pushByte b, rfl, rfl, fun _ => rfl⟩
  · refine ⟨_, execFrameDecode_eq s, s.decodeWith_crc _ _, fun c => ?_⟩
    rw [← State.decodeWith_setCrc]
    exact execFrameDecode_eq (s.setCrc c)

/-- Settles O25: the CRC command finds the same `CRC` on either side, and the frame command does the same on either
side. -/
theorem crcAndFrameAreIndependent : Obligations.CrcAndFrameAreIndependent := by
  intro s b b' i j hi hj
  obtain ⟨f, hcrc⟩ := exec_crcCommand hi
  obtain ⟨t, hframe, hkept, hany⟩ := exec_frameCommand hj s
  refine ⟨?_, t, hframe, hkept, hany⟩
  calc runCommands [i, j] s
      = .next (t.setCrc (f s.crc)) := by
        rw [runCommands_cons (hcrc s), runCommands_cons (hany _), runCommands_nil]
    _ = runCommands [j, i] s := by
        rw [runCommands_cons hframe, runCommands_cons (hcrc t), runCommands_nil, hkept]

end Sys2Proof.Machine
end

section
/-! FRAME.CLEAR and FRAME.PUSH (42_frame.md R120, R124). -/

namespace Sys2Proof.Machine

/-- Settles O26: FRAME.CLEAR has no operand byte, and its effect is the assignments of R120. -/
theorem frameClearClears : Obligations.FrameClearClears :=
  ⟨fun _ => decode_eq_ok_iff, fun s _ hnn => perform_command_of_imm_ne_zero (by decide) hnn s, fun _ => rfl⟩

/-- Settles O27: the word is the command's own, n pushes count from the 0 of FRAME.CLEAR, and one push writes the
index `FLEN` where there is one. -/
theorem framePushStoresAndCounts : Obligations.FramePushStoresAndCounts := by
  refine ⟨fun w b => ?_, fun bs s => ?_, fun s b hwf => ?_⟩
  · rw [decode_eq_ok_iff, ← BitVec.toNat_inj, encode, mkWord_toNat]
    rfl
  · exact ⟨_, runCommands_frameLoad bs s, by simpa using s.clearFrame.pushBytes_flen_toNat bs⟩
  · refine ⟨s.pushByte b, rfl, rfl, s.pushByte_flen_toNat b, fun hlt => ?_, fun a ha => ?_, s.pushByte_wf b hwf⟩
    · rw [s.pushByte_read b _ hwf, if_pos ⟨rfl, hlt⟩]
    · rw [s.pushByte_read b _ hwf, if_neg fun ⟨hat, hlt⟩ => ha hlt hat]

end Sys2Proof.Machine
end

section
/-! The verdicts of FRAME.DECODE (42_frame.md R127, R131 to R136): the state it answers, by the check that decides. -/

namespace Sys2Proof.Machine

/-- The state that FRAME.DECODE answers. -/
def State.afterDecode (s : State) : State := s.decodeWith (computeCrc16 (payloadOf s.fb)) (receivedCrc s.fb)

/-- FRAME.DECODE by that name (R127). -/
theorem exec_frameDecode (s : State) : exec .frameDecode s = .next s.afterDecode := execFrameDecode_eq s

/-- A list read, index by index. -/
theorem Memory.readList_eq_map (m : Memory) (i n : Nat) :
    m.readList i n = (List.range n).map fun k => m.read (i + k) := by
  apply List.ext_getElem?
  intro k
  by_cases hk : k < n
  · simp only [Memory.readList_getElem? m i n k hk, List.getElem?_map, List.getElem?_range hk, Option.map_some]
  · simp [hk]

/-- The payload, index by index (R5, R133). -/
theorem payloadOf_eq_map (m : Memory) : payloadOf m = (List.range 149).map fun o => m.read (2 + o) :=
  m.readList_eq_map 2 149

/-- The trailer by its two indices (R54, R133). -/
theorem receivedCrc_eq (m : Memory) : receivedCrc m = le16 (m.read 151) (m.read 152) := rfl

/-- The length check (R131). -/
theorem flen_toNat_eq_frameLen_iff (s : State) : s.flen.toNat = Config.frameLen ↔ s.flen = 153 := by
  rw [← BitVec.toNat_inj]
  rfl

/-- The header check fails (R132). -/
theorem headerOk_eq_false_iff (m : Memory) :
    headerOk m = false ↔ ¬ (m.read 0 = 0xAA#8 ∧ m.read 1 = 0x55#8) := by
  rw [← headerOk_iff, Bool.not_eq_true]

section Verdicts

variable {s : State}

/-- The verdict ERR_LENGTH (R131, R136). -/
theorem State.afterDecode_of_wrong_length (hlen : s.flen ≠ 153) :
    s.afterDecode = { s with result := 2, reading := Reading.zero, crcExp := 0, crcRcv := 0 } := by
  rw [State.afterDecode, State.decodeWith_of_wrong_length (mt (flen_toNat_eq_frameLen_iff s).mp hlen),
    State.raise_errLength]

variable (hlen : s.flen = 153)
include hlen

/-- The verdict ERR_HEADER (R132, R136). -/
theorem State.afterDecode_of_wrong_header (hheader : headerOk s.fb = false) :
    s.afterDecode = { s with result := 3, reading := Reading.zero, crcExp := 0, crcRcv := 0 } := by
  have hcount := (flen_toNat_eq_frameLen_iff s).mpr hlen
  rw [State.afterDecode, State.decodeWith, if_neg (not_not_intro hcount), if_pos (by rw [hheader]; rfl),
    State.raise_errHeader]

variable (hheader : headerOk s.fb = true)
include hheader

/-- With length and header right the two CRCs decide. -/
theorem State.decodeWith_of_header (exp rcv : Half) : s.decodeWith exp rcv =
    if exp ≠ rcv then (s.setDiagnostics exp rcv).raiseDecodeError errIntegrity
    else (s.setDiagnostics exp rcv).commitReading (decodeFields s.fb s.offsetBias) := by
  have hcount := (flen_toNat_eq_frameLen_iff s).mpr hlen
  rw [State.decodeWith, if_neg (not_not_intro hcount), if_neg (by simp [hheader])]

/-- The verdict ERR_INTEGRITY, with both CRCs (R133, R136). -/
theorem State.afterDecode_of_wrong_crc (hcrc : computeCrc16 (payloadOf s.fb) ≠ receivedCrc s.fb) :
    s.afterDecode = { s with
      result := 4
      reading := Reading.zero
      crcExp := computeCrc16 (payloadOf s.fb)
      crcRcv := receivedCrc s.fb } := by
  rw [State.afterDecode, State.decodeWith_of_header hlen hheader, if_pos hcrc, State.raise_errIntegrity]

/-- The verdict OK, with the reading (R133 to R135). -/
theorem State.afterDecode_of_valid (hcrc : computeCrc16 (payloadOf s.fb) = receivedCrc s.fb) :
    s.afterDecode = { s with
      result := 1
      reading := decodeFields s.fb s.offsetBias
      crcExp := receivedCrc s.fb
      crcRcv := receivedCrc s.fb } := by
  rw [State.afterDecode, hcrc, State.decodeWith_of_header hlen hheader, if_neg (not_not_intro rfl),
    State.commit_success]

end Verdicts

/-- Settles O29: the length check comes first. -/
theorem decodeWrongLength : Obligations.DecodeWrongLength :=
  ⟨fun _ => decode_eq_ok_iff, fun s hlen => by rw [exec_frameDecode, State.afterDecode_of_wrong_length hlen]⟩

/-- Settles O30: the header check comes second. -/
theorem decodeWrongHeader : Obligations.DecodeWrongHeader := by
  intro s hlen hheader
  rw [exec_frameDecode, State.afterDecode_of_wrong_header hlen ((headerOk_eq_false_iff _).mpr hheader)]

/-- Settles O31: the CRC check comes last. -/
theorem decodeWrongCrc : Obligations.DecodeWrongCrc := by
  intro s hlen h0 h1 hcrc
  rw [← payloadOf_eq_map, ← receivedCrc_eq] at hcrc ⊢
  rw [exec_frameDecode, State.afterDecode_of_wrong_crc hlen ((headerOk_iff _).mpr ⟨h0, h1⟩) hcrc]

/-- Settles O32: no check fails. -/
theorem decodeValidFrame : Obligations.DecodeValidFrame := by
  intro s hlen h0 h1 hcrc
  rw [← payloadOf_eq_map, ← receivedCrc_eq] at hcrc
  rw [exec_frameDecode, State.afterDecode_of_valid hlen ((headerOk_iff _).mpr ⟨h0, h1⟩) hcrc, receivedCrc_eq]

/-- Settles O34, by the check that failed; where none did, the result is 1. -/
theorem failedDecodeLeavesNoReading : Obligations.FailedDecodeLeavesNoReading := by
  intro s t hexec hfailed
  obtain rfl : s.afterDecode = t := Host.Outcome.next.inj ((exec_frameDecode s).symm.trans hexec)
  rw [← payloadOf_eq_map, ← receivedCrc_eq]
  by_cases hlen : s.flen = 153
  · cases hheader : headerOk s.fb with
    | false => simp [State.afterDecode_of_wrong_header hlen hheader]
    | true =>
      by_cases hcrc : computeCrc16 (payloadOf s.fb) = receivedCrc s.fb
      · simp [State.afterDecode_of_valid hlen hheader hcrc] at hfailed
      · simp [State.afterDecode_of_wrong_crc hlen hheader hcrc]
  · simp [State.afterDecode_of_wrong_length hlen]

end Sys2Proof.Machine
end

section
/-! FRAME.DECODE again (42_frame.md R137): its verdict is a function of `FLEN`, the buffer and the bias, and what the
host may do in between writes none of them. -/

namespace Sys2Proof.Machine

@[simp] theorem State.afterDecode_fb (s : State) : s.afterDecode.fb = s.fb := s.decodeWith_fb _ _

@[simp] theorem State.afterDecode_flen (s : State) : s.afterDecode.flen = s.flen := s.decodeWith_flen _ _

@[simp] theorem State.afterDecode_offsetBias (s : State) : s.afterDecode.offsetBias = s.offsetBias :=
  s.decodeWith_offsetBias _ _

/-- Equal verdicts, register by register. -/
theorem State.verdict_eq_iff (s t : State) : t.verdict = s.verdict ↔
    t.result = s.result ∧ t.crcExp = s.crcExp ∧ t.crcRcv = s.crcRcv ∧ t.reading = s.reading := by
  simp only [State.verdict, Prod.mk.injEq]

/-- FRAME.DECODE writes the verdict and nothing else, so it changes nothing when the verdict stands already. -/
theorem State.afterDecode_eq_self_iff (s : State) : s.afterDecode = s ↔ s.afterDecode.verdict = s.verdict := by
  refine ⟨fun h => by rw [h], fun h => ?_⟩
  obtain ⟨hresult, hexp, hrcv, hreading⟩ := (State.verdict_eq_iff _ _).mp h
  have hframe : s.afterDecode = { s with
      result := s.afterDecode.result
      reading := s.afterDecode.reading
      crcExp := s.afterDecode.crcExp
      crcRcv := s.afterDecode.crcRcv } := s.decodeWith_frame _ _
  rw [hframe, hresult, hexp, hrcv, hreading]

/-- What FRAME.DECODE reads: `FLEN`, the 153 bytes of `FB` and `OFFSET_BIAS` (R137). -/
theorem State.afterDecode_verdict_congr {s t : State} (hflen : t.flen = s.flen)
    (hfb : ∀ i : Nat, i < Config.fbCap → t.fb.read i = s.fb.read i) (hbias : t.offsetBias = s.offsetBias) :
    t.afterDecode.verdict = s.afterDecode.verdict := by
  rw [State.afterDecode, State.afterDecode, payloadOf_congr hfb, receivedCrc_congr hfb]
  generalize computeCrc16 (payloadOf s.fb) = exp
  unfold State.decodeWith
  rw [hflen, headerOk_congr hfb, decodeFields_congr hfb, hbias]
  split_ifs <;> rfl

/-- A second FRAME.DECODE changes nothing (R137). -/
@[simp] theorem State.afterDecode_afterDecode (s : State) : s.afterDecode.afterDecode = s.afterDecode :=
  (State.afterDecode_eq_self_iff _).mpr
    (State.afterDecode_verdict_congr s.afterDecode_flen (fun _ _ => by rw [State.afterDecode_fb])
      s.afterDecode_offsetBias)

/-- The verdict of a decode stands in a state that kept it and what the decode read. -/
theorem State.afterDecode_eq_self_of_kept {s t : State} (hs : s.afterDecode = s) (hfb : t.fb = s.fb)
    (hflen : t.flen = s.flen) (hbias : t.offsetBias = s.offsetBias) (hverdict : t.verdict = s.verdict) :
    t.afterDecode = t := by
  rw [State.afterDecode_eq_self_iff, hverdict,
    State.afterDecode_verdict_congr hflen (fun _ _ => by rw [hfb]) hbias, hs]

/-- The interactions that R137 allows between two decodes: all but FRAME.CLEAR, FRAME.PUSH and reset. -/
def KeepsFrame (x : Interaction) : Prop :=
  x ≠ .reset ∧ x ≠ .command 0x1000 ∧ ∀ b : Byte, x ≠ .command (mkWord 0x11 b)

/-- Each of them keeps a verdict that stands, FRAME.DECODE because it finds the same again. -/
theorem perform_of_keepsFrame {x : Interaction} (hx : KeepsFrame x) {s : State}
    (hs : s.afterDecode = s) :
    ∃ t : State, perform x s = .next t ∧ t.verdict = s.verdict ∧ t.afterDecode = t := by
  obtain ⟨hreset, hclear, hpush⟩ := hx
  rcases perform_cases x s with ⟨w, i, rfl, hdec, hp⟩ | ⟨w, e, rfl, -, hp⟩ | ⟨a, rfl, hp⟩ | ⟨rfl, -⟩
  · obtain rfl := eq_encode_of_decode hdec
    rw [hp]
    cases i with
    | nop => exact ⟨s, rfl, rfl, hs⟩
    | crcInit => exact ⟨_, rfl, rfl, State.afterDecode_eq_self_of_kept hs rfl rfl rfl rfl⟩
    | crcByte b => exact ⟨_, rfl, rfl, State.afterDecode_eq_self_of_kept hs rfl rfl rfl rfl⟩
    | frameClear => exact absurd rfl hclear
    | framePush b => exact absurd rfl (hpush b)
    | frameDecode => exact ⟨s, by rw [exec_frameDecode, hs], rfl, hs⟩
  · exact ⟨_, hp, rfl, State.afterDecode_eq_self_of_kept hs rfl rfl rfl rfl⟩
  · exact ⟨_, hp, rfl, State.afterDecode_eq_self_of_kept hs rfl rfl rfl rfl⟩
  · exact absurd rfl hreset

/-- So does any number of them. -/
theorem performAll_of_keepsFrame {xs : List Interaction} (hxs : ∀ x ∈ xs, KeepsFrame x) {s : State}
    (hs : s.afterDecode = s) :
    ∃ t : State, performAll xs s = .next t ∧ t.verdict = s.verdict ∧ t.afterDecode = t := by
  induction xs generalizing s with
  | nil => exact ⟨s, rfl, rfl, hs⟩
  | cons x xs ih =>
    rw [List.forall_mem_cons] at hxs
    obtain ⟨u, hu, hverdict, hstands⟩ := perform_of_keepsFrame hxs.1 hs
    obtain ⟨t, ht, hverdict', hstands'⟩ := ih hxs.2 hstands
    exact ⟨t, (performAll_cons_next hu).trans ht, hverdict'.trans hverdict, hstands'⟩

/-- Settles O35: the verdict stands after the first decode and is kept from there; with no byte counted it is
ERR_LENGTH; and it is the same from equal inputs. -/
theorem decodeIsRepeatable : Obligations.DecodeIsRepeatable := by
  refine ⟨fun s xs hxs => ?_, fun s hempty => ?_, fun s s' hflen hfb hbias => ?_⟩
  · obtain ⟨u, hu, hverdict, hstands⟩ := performAll_of_keepsFrame hxs s.afterDecode_afterDecode
    obtain ⟨hresult, hexp, hrcv, hreading⟩ := (State.verdict_eq_iff _ _).mp hverdict
    exact ⟨s.afterDecode, u, exec_frameDecode s, hu, hresult, hreading, hexp, hrcv, by rw [exec_frameDecode, hstands]⟩
  · have hlen : s.flen ≠ 153 := by rw [hempty]; decide
    exact ⟨s.afterDecode, exec_frameDecode s, by rw [State.afterDecode_of_wrong_length hlen]⟩
  · obtain ⟨hresult, hexp, hrcv, hreading⟩ :=
      (State.verdict_eq_iff _ _).mp (State.afterDecode_verdict_congr hflen hfb hbias)
    exact ⟨s.afterDecode, s'.afterDecode, exec_frameDecode s, exec_frameDecode s', hresult, hreading, hexp, hrcv⟩

end Sys2Proof.Machine
end

section
/-! A frame built from a payload, loaded and decoded (42_frame.md R138). -/

namespace Sys2Proof.Machine

/-- A run of commands that answers a next state goes on from there (R62). -/
theorem runCommands_append {is : List Instr} {s t : State} (h : runCommands is s = .next t) (js : List Instr) :
    runCommands (is ++ js) s = runCommands js t := by
  induction is generalizing s with
  | nil => rw [Host.Outcome.next.inj h, List.nil_append]
  | cons i is ih =>
    obtain ⟨u, hu⟩ := exec_takeInput i s
    have hexec : exec i s = .next (u.takeInput s.inputs) := hu s.inputs
    rw [runCommands_cons hexec] at h
    rw [List.cons_append, runCommands_cons hexec, ih h]

/-- The trailer of a frame reads back as the CRC it was made from (R54, R138). -/
theorem le16_of_wireBytesLE (c : Half) : le16 (c.extractLsb' 0 8) (c.extractLsb' 8 8) = c := mkWord_fields c

/-- A buffer that holds a frame passes the header check (R132). -/
theorem headerOk_of_frame {payload : List Byte} {m : Memory}
    (hframe : ∀ i : Nat, i < 153 → (frameOf payload)[i]? = some (m.read i)) : headerOk m = true := by
  have h0 := hframe 0 (by decide)
  have h1 := hframe 1 (by decide)
  exact (headerOk_iff m).mpr ⟨(Option.some.inj h0).symm, (Option.some.inj h1).symm⟩

section Frame

variable {payload : List Byte} (hlen : payload.length = 149)
include hlen

/-- A payload of 149 bytes makes a frame of 153 (R3, R138). -/
theorem frameOf_length : (frameOf payload).length = 153 := by
  simp [frameOf, wireBytesLE, hlen]

/-- The payload stands in the frame from index 2 (R52). -/
theorem frameOf_getElem?_payload {o : Nat} (ho : o < 149) : (frameOf payload)[2 + o]? = payload[o]? := by
  rw [frameOf, List.getElem?_append_left (by simp only [List.length_cons]; omega), Nat.add_comm,
    List.getElem?_cons_succ, List.getElem?_cons_succ]

/-- The low byte of the CRC comes first in the trailer (R54). -/
theorem frameOf_getElem?_crcLow : (frameOf payload)[151]? = some ((computeCrc16 payload).extractLsb' 0 8) := by
  rw [frameOf, List.getElem?_append_right (by simp [hlen])]
  simp [hlen, wireBytesLE]

/-- The high byte of the CRC ends the frame (R54). -/
theorem frameOf_getElem?_crcHigh : (frameOf payload)[152]? = some ((computeCrc16 payload).extractLsb' 8 8) := by
  rw [frameOf, List.getElem?_append_right (by simp [hlen])]
  simp [hlen, wireBytesLE]

variable {m : Memory} (hframe : ∀ i : Nat, i < 153 → (frameOf payload)[i]? = some (m.read i))
include hframe

/-- A buffer that holds the frame holds its payload, byte by byte. -/
theorem payload_getElem?_of_frame {o : Nat} (ho : o < 149) : payload[o]? = some (payloadByte m o) := by
  rw [← frameOf_getElem?_payload hlen ho, hframe (2 + o) (by omega)]
  rfl

/-- The payload read back is the one that the frame was built from. -/
theorem payloadOf_of_frame : payloadOf m = payload := by
  apply List.ext_getElem?
  intro o
  by_cases ho : o < 149
  · rw [payload_getElem?_of_frame hlen hframe ho, payloadOf, Memory.readList_getElem? _ _ _ _ ho, payloadByte]
  · have hbeyond : payload.length ≤ o := by omega
    rw [List.getElem?_eq_none hbeyond, payloadOf, List.getElem?_eq_none (by simpa using ho)]

/-- The trailer read back is the payload's CRC. -/
theorem receivedCrc_of_frame : receivedCrc m = computeCrc16 payload := by
  have hlow := (hframe 151 (by decide)).symm.trans (frameOf_getElem?_crcLow hlen)
  have hhigh := (hframe 152 (by decide)).symm.trans (frameOf_getElem?_crcHigh hlen)
  rw [receivedCrc_eq, Option.some.inj hlow, Option.some.inj hhigh, le16_of_wireBytesLE]

end Frame

/-- Settles O36: FRAME.LOAD puts the frame into the buffer, and there it passes the three checks. -/
theorem frameRoundTrip : Obligations.FrameRoundTrip := by
  intro payload s hlen hwf
  have hlength := frameOf_length hlen
  obtain ⟨-, -, t, hload, hcount, hstored, -, hkept⟩ := frameLoadFillsBuffer (frameOf payload) s hwf
  rw [hlength] at hcount hstored
  have hflen : t.flen = 153 := BitVec.eq_of_toNat_eq hcount
  have hpayload := payloadOf_of_frame hlen hstored
  have hrcv := receivedCrc_of_frame hlen hstored
  have hvalid := State.afterDecode_of_valid hflen (headerOk_of_frame hstored) (by rw [hpayload, hrcv])
  rw [hrcv] at hvalid
  refine ⟨rfl, t.afterDecode, ?_, ?_⟩
  · rw [runCommands_append hload, runCommands_cons (exec_frameDecode t), runCommands_nil]
  · rw [hvalid]
    refine ⟨rfl, hflen, rfl, rfl, fun o ho => payload_getElem?_of_frame hlen hstored ho, ?_, ?_, ?_⟩
    all_goals rw [hkept]

end Sys2Proof.Machine
end

section
/-! One changed byte in a frame (42_frame.md R139): the header check finds it in the header, and the fold of the CRC,
which loses nothing, finds it in the payload or against the trailer. -/

namespace Sys2Proof.Machine

/-- The fold over any bytes is one-to-one in the accumulator (R102). -/
theorem crcFold_injective (bs : List Byte) : Function.Injective (crcFold · bs) := by
  induction bs with
  | nil => exact fun _ _ h => h
  | cons b bs ih => exact fun c c' h => crcByteIsInjective.1 c c' b (ih h)

/-- Changing one byte of a sequence changes its CRC. -/
theorem computeCrc16_set_ne {bs : List Byte} {j : Nat} {b : Byte} (hj : j < bs.length) (hb : b ≠ bs[j]) :
    computeCrc16 (bs.set j b) ≠ computeCrc16 bs := by
  have hfold (b' : Byte) : computeCrc16 (bs.take j ++ b' :: bs.drop (j + 1)) =
      crcFold (crcByte (crcFold Config.crcInit (bs.take j)) b') (bs.drop (j + 1)) :=
    crcFold_append Config.crcInit (bs.take j) (b' :: bs.drop (j + 1))
  have hbs : bs.take j ++ bs[j] :: bs.drop (j + 1) = bs := by
    rw [List.getElem_cons_drop, List.take_append_drop]
  intro h
  rw [List.set_eq_take_append_cons_drop, if_pos hj, hfold, ← congrArg computeCrc16 hbs, hfold] at h
  exact hb (crcByteIsInjective.2 _ _ _ (crcFold_injective _ h))

section OneByte

variable {m : Memory} (hwf : Memory.wf m = true) {i : Nat} {b : Byte}

/-- Outside the payload a write leaves the payload. -/
theorem payloadOf_write_outside (hi : i < 2 ∨ 151 ≤ i) : payloadOf (m.write i b) = payloadOf m :=
  Memory.readList_congr fun k hlo hhi => Memory.read_write_other m b (by
    simp only [Config.payloadStart, Config.payloadLen] at hlo hhi
    omega)

/-- Outside the trailer a write leaves the received CRC. -/
theorem receivedCrc_write_outside (hi : i < 151) : receivedCrc (m.write i b) = receivedCrc m := by
  rw [receivedCrc_eq, receivedCrc_eq, Memory.read_write_other m b (by omega), Memory.read_write_other m b (by omega)]

/-- Outside the header a write leaves the header check. -/
theorem headerOk_write_outside (hi : 2 ≤ i) : headerOk (m.write i b) = headerOk m := by
  rw [headerOk, headerOk, Memory.read_write_other m b (by omega), Memory.read_write_other m b (by omega)]

include hwf

/-- A write inside the payload sets its byte. -/
theorem payloadOf_write {o : Nat} (ho : o < 149) : payloadOf (m.write (2 + o) b) = (payloadOf m).set o b := by
  apply List.ext_getElem?
  intro k
  by_cases hk : k < 149
  · rw [List.getElem?_set]
    simp only [payloadOf, Memory.readList_length, Memory.readList_getElem? _ _ _ _ hk]
    by_cases hko : o = k
    · subst hko
      simp [ho, Memory.read_write_same m _ b hwf]
    · simp [hko, Memory.read_write_other m b (show 2 + k ≠ 2 + o by omega)]
  · simp [payloadOf, hk]

/-- A valid header with one byte changed is wrong (R132). -/
theorem headerOk_write_of_ne (hi : i < 2) (hb : b ≠ m.read i) (hheader : headerOk m = true) :
    headerOk (m.write i b) = false := by
  obtain ⟨h0, h1⟩ := (headerOk_iff m).mp hheader
  have hsame := Memory.read_write_same m i b hwf
  rw [headerOk_eq_false_iff]
  rintro ⟨h0', h1'⟩
  interval_cases i
  · exact hb (by rw [← hsame, h0', h0])
  · exact hb (by rw [← hsame, h1', h1])

/-- A changed byte of the payload changes the payload's CRC (R133). -/
theorem payloadCrc_write_of_ne (hlo : 2 ≤ i) (hhi : i < 151) (hb : b ≠ m.read i) :
    computeCrc16 (payloadOf (m.write i b)) ≠ computeCrc16 (payloadOf m) := by
  obtain ⟨o, rfl⟩ := Nat.exists_eq_add_of_le hlo
  have ho : o < 149 := by omega
  have hlength : o < (payloadOf m).length := ho.trans_eq (m.readList_length 2 149).symm
  have hread : (payloadOf m)[o] = m.read (2 + o) :=
    (List.getElem_eq_iff hlength).mpr (m.readList_getElem? 2 149 o ho)
  rw [payloadOf_write hwf ho]
  exact computeCrc16_set_ne hlength (hread ▸ hb)

/-- A changed byte of the trailer changes the received CRC (R54). -/
theorem receivedCrc_write_of_ne (hlo : 151 ≤ i) (hhi : i < 153) (hb : b ≠ m.read i) :
    receivedCrc (m.write i b) ≠ receivedCrc m := by
  have hsame := Memory.read_write_same m i b hwf
  intro h
  obtain ⟨hhigh, hlow⟩ := mkWord_inj.mp h
  obtain rfl | rfl : i = 151 ∨ i = 152 := by omega
  · exact hb (hsame.symm.trans hlow)
  · exact hb (hsame.symm.trans hhigh)

end OneByte

/-- The buffer after a flip: one byte written. -/
@[simp] theorem State.flipBit_fb (s : State) (i k : Nat) :
    (s.flipBit i k).fb = s.fb.write i (s.fb.read i ^^^ (1#8 <<< k)) := rfl

/-- A flipped bit changes the byte. -/
theorem xor_bit_ne (x : Byte) {k : Nat} (hk : k < 8) : x ^^^ (1#8 <<< k) ≠ x := by
  intro h
  have hbit := congrArg (BitVec.getLsbD · k) h
  simp [hk] at hbit

/-- Settles O37: the flipped byte is in the header, in the payload or in the trailer, and the other two are as they
were. -/
theorem everySingleBitFlipIsFound : Obligations.EverySingleBitFlipIsFound := by
  intro s i k hwf hvalid hi hk
  have hheader := (headerOk_iff s.fb).mpr hvalid.header
  have hlen : (s.flipBit i k).flen = 153 := hvalid.length
  have hb := xor_bit_ne (s.fb.read i) hk
  refine ⟨_, exec_frameDecode _, ?_⟩
  by_cases hi2 : i < 2
  · rw [if_pos hi2, State.afterDecode_of_wrong_header hlen (headerOk_write_of_ne hwf hi2 hb hheader)]
  · have hheader' : headerOk (s.flipBit i k).fb = true := (headerOk_write_outside (by omega)).trans hheader
    have hcrc : computeCrc16 (payloadOf (s.flipBit i k).fb) ≠ receivedCrc (s.flipBit i k).fb := by
      rw [State.flipBit_fb]
      by_cases hpay : i < 151
      · rw [receivedCrc_write_outside hpay, ← hvalid.integrity]
        exact payloadCrc_write_of_ne hwf (by omega) hpay hb
      · rw [payloadOf_write_outside (.inr (by omega)), hvalid.integrity]
        exact (receivedCrc_write_of_ne hwf (by omega) hi hb).symm
    rw [if_neg hi2, State.afterDecode_of_wrong_crc hlen hheader' hcrc]

end Sys2Proof.Machine
end

section
/-! The byte orders of the fields (43_fields.md R150 to R153): the reads of the payload as numbers, and the converter
as an exchange of the two bytes of a pair. -/

namespace Sys2Proof.Machine

/-- A u32 of four bytes as a number (R151). -/
theorem join32_toNat (b3 b2 b1 b0 : Byte) : (join32 b3 b2 b1 b0).toNat =
    b3.toNat * 2 ^ 24 + b2.toNat * 2 ^ 16 + b1.toNat * 2 ^ 8 + b0.toNat := by
  have hhigh : (b3 ++ b2 : BitVec 16).toNat = b3.toNat * 256 + b2.toNat := join16_toNat b3 b2
  have hlow : (b1 ++ b0 : BitVec 16).toNat = b1.toNat * 256 + b0.toNat := join16_toNat b1 b0
  rw [join32, BitVec.toNat_append, ← Nat.shiftLeft_add_eq_or_of_lt (BitVec.isLt _), Nat.shiftLeft_eq, hhigh, hlow]
  omega

/-- `be16` as a number (R150). -/
theorem be16_toNat (m : Memory) (i : Nat) :
    (be16 m i).toNat = (m.read (2 + i)).toNat * 256 + (m.read (2 + (i + 1))).toNat := join16_toNat _ _

/-- `be32` as a number (R151). -/
theorem be32_toNat (m : Memory) (i : Nat) : (be32 m i).toNat =
    (m.read (2 + i)).toNat * 2 ^ 24 + (m.read (2 + (i + 1))).toNat * 2 ^ 16 +
      (m.read (2 + (i + 2))).toNat * 2 ^ 8 + (m.read (2 + (i + 3))).toNat := join32_toNat _ _ _ _

/-- The trailer's read is the join of the wire pair in the other order (R152). -/
theorem le16_eq_join16 (lo hi : Byte) : le16 lo hi = join16 hi lo := rfl

/-- Settles O38. -/
theorem byteOrdersAsNumbers : Obligations.ByteOrdersAsNumbers := by
  refine ⟨be16_toNat, be32_toNat, fun lo hi => ?_⟩
  rw [le16_eq_join16, join16_toNat]
  omega

/-- A u16 is made of its two bytes (R53). -/
theorem exists_join16 (x : Half) : ∃ hi lo : Byte, x = join16 hi lo :=
  ⟨opField x, imm8Field x, (mkWord_fields x).symm⟩

/-- The mask of the converter keeps the low byte (R153). -/
theorem join16_and_low (hi lo : Byte) : join16 hi lo &&& 0x00FF#16 = lo.setWidth 16 := by
  apply BitVec.eq_of_toNat_eq
  have hlo := lo.isLt
  have hmask : (0x00FF#16).toNat = 2 ^ 8 - 1 := rfl
  rw [BitVec.toNat_and, hmask, Nat.and_two_pow_sub_one_eq_mod, join16_toNat,
    BitVec.toNat_setWidth_of_le (by decide)]
  omega

/-- The shift of the converter brings the high byte down (R153). -/
theorem join16_ushiftRight (hi lo : Byte) : join16 hi lo >>> 8 = hi.setWidth 16 := by
  apply BitVec.eq_of_toNat_eq
  have hlo := lo.isLt
  rw [BitVec.toNat_ushiftRight, Nat.shiftRight_eq_div_pow, join16_toNat,
    BitVec.toNat_setWidth_of_le (by decide)]
  omega

/-- The converter exchanges the two bytes of a u16 (R153). -/
theorem swap16_join16 (hi lo : Byte) : swap16 (join16 hi lo) = join16 lo hi := by
  rw [swap16, join16_and_low, join16_ushiftRight, join16, BitVec.append_def, BitVec.shiftLeftZeroExtend_eq,
    BitVec.setWidth'_eq]

/-- The byte lanes of a u32 are its wire bytes reversed (R55, R153). -/
theorem byteLanes_join32 (b3 b2 b1 b0 : Byte) : byteLanes (join32 b3 b2 b1 b0) = [b0, b1, b2, b3] := by
  have h0 := b0.isLt
  have h1 := b1.isLt
  have h2 := b2.isLt
  have h3 := b3.isLt
  simp only [byteLanes, List.cons.injEq, ← BitVec.toNat_inj, BitVec.extractLsb'_toNat, join32_toNat,
    Nat.shiftRight_eq_div_pow, and_true]
  omega

/-- A u16 in a register of 32 bits has two zero bytes above it (R17, R55). -/
theorem join16_setWidth (hi lo : Byte) : (join16 hi lo).setWidth 32 = join32 0x00 0x00 hi lo := by
  apply BitVec.eq_of_toNat_eq
  rw [BitVec.toNat_setWidth_of_le (by decide), join16_toNat, join32_toNat]
  simp

/-- Settles O39, with each field as the join of its wire bytes. -/
theorem converterSwapsByteOrder : Obligations.ConverterSwapsByteOrder := by
  refine ⟨fun m i => (swap16_join16 _ _).symm, fun x => ?_, fun m i => ?_, fun m i => byteLanes_join32 _ _ _ _⟩
  · obtain ⟨hi, lo, rfl⟩ := exists_join16 x
    rw [swap16_join16, swap16_join16]
  · rw [be16, join16_setWidth, byteLanes_join32]

end Sys2Proof.Machine
end

section
/-! The field extractor reads the payload alone (43_fields.md R154): unlike `decodeFields_congr`, the hypothesis says
nothing of the header and the trailer. -/

namespace Sys2Proof.Machine

section SamePayload

variable {m m' : Memory} (hpayload : ∀ o : Nat, o ≤ 148 → payloadByte m' o = payloadByte m o)
include hpayload

theorem field8_of_same_payload (bias : Fin 51) {o : Nat} (ho : o ≤ 98) : field8 m' bias o = field8 m bias o :=
  hpayload _ (by omega)

theorem field16_of_same_payload (bias : Fin 51) {o : Nat} (ho : o ≤ 97) :
    field16 m' bias o = field16 m bias o := by
  rw [field16, field16, be16, be16, hpayload _ (by omega), hpayload _ (by omega)]

theorem field32_of_same_payload (bias : Fin 51) {o : Nat} (ho : o ≤ 95) :
    field32 m' bias o = field32 m bias o := by
  rw [field32, field32, be32, be32, hpayload _ (by omega), hpayload _ (by omega), hpayload _ (by omega),
    hpayload _ (by omega)]

/-- No field reads past payload byte 148, whatever the bias (R154). -/
theorem decodeFields_of_same_payload (bias : Fin 51) : decodeFields m' bias = decodeFields m bias := by
  simp [decodeFields, stringChannel, phaseChannel, field8_of_same_payload hpayload,
    field16_of_same_payload hpayload, field32_of_same_payload hpayload]

end SamePayload

/-- Settles O40: payload byte `o` is frame byte `2 + o`. -/
theorem fieldsReadOnlyThePayload : Obligations.FieldsReadOnlyThePayload :=
  fun _ _ bias h => decodeFields_of_same_payload (fun o ho => h (2 + o) (by omega) (by omega)) bias

end Sys2Proof.Machine
end

section
/-! The scaler, the sentinel and the power (43_fields.md R155, R160, R161, R175). -/

namespace Sys2Proof.Machine

/-- Settles O41; that the divisors are positive is all that counts. -/
theorem scalerIsExact : Obligations.ScalerIsExact := by
  intro r d hd
  have hpos : 0 < d := by
    revert d; decide
  have hrebuild : r = scaleQ r d * d + scaleR r d := (Nat.div_add_mod' r d).symm
  refine ⟨hrebuild, Nat.mod_lt r hpos, fun q x hr hx => ?_, ?_⟩
  · obtain ⟨hq, hrem⟩ := (Nat.div_mod_unique (a := r) hpos).mpr ⟨by rw [hr, Nat.mul_comm, Nat.add_comm], hx⟩
    exact ⟨hq.symm, hrem.symm⟩
  · have hne : (d : ℚ) ≠ 0 := by exact_mod_cast hpos.ne'
    have hcast : (r : ℚ) = scaleQ r d * d + scaleR r d := by exact_mod_cast hrebuild
    rw [Scaled.value, hcast, add_div, mul_div_cancel_right₀ _ hne]

/-- The absent voltage as a number (R160). -/
theorem eq_sentinel_iff_toNat (v : Half) : v = 0xFFFF#16 ↔ v.toNat = 65535 := BitVec.toNat_inj.symm

/-- Settles O42. -/
theorem sentinelRawAndScaledAgree : Obligations.SentinelRawAndScaledAgree := by
  intro v
  have hraw : isSentinel v = true ↔ v.toNat = 65535 := (isSentinel_iff v).trans (eq_sentinel_iff_toNat v)
  have hscaled : (Scaled.mk v.toNat 10).value = 6553.5 ↔ v.toNat = 65535 := by
    have hten : (6553.5 : ℚ) = (65535 : ℕ) / (10 : ℕ) := by norm_num
    rw [hten, Scaled.value, div_left_inj' (by norm_num), Nat.cast_inj]
  exact ⟨hraw, hraw.trans hscaled.symm⟩

/-- Settles O43: the product of two tenths is hundredths. -/
theorem powerIsExactProduct : Obligations.PowerIsExactProduct := by
  intro v i hv
  have hpower : (channelPower v i).toNat = v.toNat * i.toNat := (channelPower_toNat v i).trans (if_neg hv)
  refine ⟨hpower, ?_, ?_⟩
  · have hv' : v.toNat ≠ 65535 := mt (eq_sentinel_iff_toNat v).mpr hv
    have hvlt := v.isLt
    have hilt := i.isLt
    rw [hpower]
    exact Nat.mul_le_mul (n₁ := v.toNat) (m₁ := i.toNat) (n₂ := 65534) (m₂ := 65535) (by omega) (by omega)
  · simp only [Scaled.value, hpower]
    push_cast
    ring

end Sys2Proof.Machine
end

section
/-! The reading as numbers, register by register, from the payload bytes at their offsets plus `OFFSET_BIAS`
(43_fields.md R170 to R184). -/

namespace Sys2Proof.Machine

section FieldsAsNumbers

variable (m : Memory) (bias : Fin 51)

/-- A 16-bit field from the bytes at its offset and the next (R150, R154). -/
theorem field16_toNat (o : Nat) : (field16 m bias o).toNat =
    (m.read (2 + (o + bias.val))).toNat * 256 + (m.read (2 + (o + 1 + bias.val))).toNat := by
  rw [field16, be16_toNat, Nat.add_right_comm o bias.val 1]

/-- A 32-bit field from the four bytes at its offset (R151, R154). -/
theorem field32_toNat (o : Nat) : (field32 m bias o).toNat =
    (m.read (2 + (o + bias.val))).toNat * 2 ^ 24 + (m.read (2 + (o + 1 + bias.val))).toNat * 2 ^ 16 +
      (m.read (2 + (o + 2 + bias.val))).toNat * 2 ^ 8 + (m.read (2 + (o + 3 + bias.val))).toNat := by
  rw [field32, be32_toNat, Nat.add_right_comm o bias.val 1, Nat.add_right_comm o bias.val 2,
    Nat.add_right_comm o bias.val 3]

/-- The string registers of a reading are the four channels in order (R176). -/
theorem eq_stringChannel_of_getElem? {k : Nat} {c : StringRegs}
    (hc : [(decodeFields m bias).string1, (decodeFields m bias).string2, (decodeFields m bias).string3,
      (decodeFields m bias).string4][k]? = some c) : c = stringChannel m bias k := by
  match k, hc with
  | 0, rfl | 1, rfl | 2, rfl | 3, rfl => rfl

/-- The phase registers of a reading are the three channels in order (R178). -/
theorem eq_phaseChannel_of_getElem? {j : Nat} {c : PhaseRegs}
    (hc : [(decodeFields m bias).phase1, (decodeFields m bias).phase2, (decodeFields m bias).phase3][j]? = some c) :
    c = phaseChannel m bias j := by
  match j, hc with
  | 0, rfl | 1, rfl | 2, rfl => rfl

end FieldsAsNumbers

/-- The present flag of a channel against its voltage as a number (R161). -/
theorem not_isSentinel_iff_toNat (v : Half) : (!isSentinel v) = true ↔ v.toNat ≠ 65535 :=
  (not_isSentinel_iff v).trans (eq_sentinel_iff_toNat v).not

/-- The power register against the voltage as a number (R176, R178). -/
theorem channelPower_toNat_of_voltage (v i : Half) :
    (channelPower v i).toNat = if v.toNat = 65535 then 0 else v.toNat * i.toNat := by
  simp only [channelPower_toNat, eq_sentinel_iff_toNat]

/-- Settles O44: the channel's registers, whatever its number. -/
theorem stringChannelsFromPayload : Obligations.StringChannelsFromPayload := by
  intro m bias k c hc
  rw [eq_stringChannel_of_getElem? m bias hc]
  have hv := field16_toNat m bias (7 + 4 * k)
  have hi := field16_toNat m bias (9 + 4 * k)
  rw [Nat.add_right_comm _ _ 1] at hv hi
  exact ⟨hv, hi, not_isSentinel_iff_toNat _, channelPower_toNat_of_voltage _ _⟩

/-- Settles O45: the channel's registers, whatever its number. -/
theorem phaseChannelsFromPayload : Obligations.PhaseChannelsFromPayload := by
  intro m bias j c hc
  rw [eq_phaseChannel_of_getElem? m bias hc]
  have hv := field16_toNat m bias (37 + 2 * j)
  have hi := field16_toNat m bias (43 + 2 * j)
  have hf := field16_toNat m bias (49 + 2 * j)
  rw [Nat.add_right_comm _ _ 1] at hv hi hf
  exact ⟨hv, hi, hf, not_isSentinel_iff_toNat _, channelPower_toNat_of_voltage _ _⟩

/-- Settles O46: the year does not wrap, and a byte is below 256. -/
theorem timestampFromPayload : Obligations.TimestampFromPayload := by
  intro m bias r p
  have hyear : r.tsYear.toNat = 2000 + r.tsYY.toNat := yearOf_toNat _
  have hbyte := r.tsYY.isLt
  exact ⟨rfl, rfl, rfl, rfl, rfl, rfl, hyear, hyear, by omega, by omega⟩

/-- Settles O47. The divisors are closed. -/
theorem scalarsFromPayload : Obligations.ScalarsFromPayload := fun m bias =>
  ⟨field16_toNat m bias 57, field16_toNat m bias 83, field16_toNat m bias 89, field32_toNat m bias 91,
    field16_toNat m bias 97, rfl⟩

end Sys2Proof.Machine
end

section
/-! The consumer's view of a reading (43_fields.md R185). -/

namespace Sys2Proof.Machine

/-- The view of a reading, entry by entry (R185). -/
def Reading.view (r : Reading) : OutputView where
  datetime := datetimeText r
  string1 := stringView r.string1
  string2 := stringView r.string2
  string3 := stringView r.string3
  string4 := stringView r.string4
  phase1 := phaseView r.phase1
  phase2 := phaseView r.phase2
  phase3 := phaseView r.phase3
  powerToGrid := ⟨r.gridP.toNat, 1⟩
  temperature := ⟨r.temp.toNat, 10⟩
  yieldToday := ⟨r.eDay.toNat, 10⟩
  yieldTotal := ⟨r.eTotal.toNat, 10⟩
  workingHours := ⟨r.hTotal.toNat, 1⟩

/-- The state's view is its reading's, under `RESULT` 1 (R185). -/
theorem State.outputView_eq (s : State) :
    s.outputView = if s.result = 1 then some s.reading.view else none := rfl

/-- A channel's entry stands at the channel's own place in the view. -/
theorem eq_of_getElem?_map {α β : Type} (f : α → β) {xs : List α} {k : Nat} {x : α} {y : β}
    (hx : xs[k]? = some x) (hy : (xs.map f)[k]? = some y) : y = f x := by
  rw [List.getElem?_map, hx] at hy
  exact (Option.some.inj hy).symm

/-- Settles O58: the lists of entries are the lists of channels, each under its channel's view. -/
theorem outputViewOmitsAbsentChannels : Obligations.OutputViewOmitsAbsentChannels := by
  intro s
  rw [s.outputView_eq]
  refine ⟨by simp, fun v hv => ?_⟩
  obtain ⟨-, hview⟩ := Option.ite_none_right_eq_some.mp hv
  obtain rfl : s.reading.view = v := Option.some.inj hview
  exact ⟨fun k c e hc he => eq_of_getElem?_map stringView hc he,
    fun j c e hc he => eq_of_getElem?_map phaseView hc he, rfl, rfl, rfl, rfl, rfl⟩

end Sys2Proof.Machine
end

section
/-! Errors and their priority (60_exceptions.md): the idle step, the flag of illegal words, and the order of the checks
of FRAME.DECODE. -/

namespace Sys2Proof.Machine

/-- Settles O13: of the two cases of a step, an empty queue leaves the idle one. -/
theorem idleStepHoldsState : Obligations.IdleStepHoldsState := by
  intro s hempty
  rcases step_cases s with ⟨-, hidle⟩ | ⟨x, rest, hqueued, -⟩
  · exact hidle
  · exact absurd (hqueued.symm.trans hempty) (List.cons_ne_nil x rest)

/-- A step that is not a reset never takes `ILLEGAL` back (R205). -/
theorem StepEffect.illegal_of_not_resetNext {s t : State} (h : StepEffect s t) (hset : s.illegal = true)
    (hreset : ¬ s.ResetNext) : t.illegal = true := by
  rcases h.illegal_eq_or with hsame | ⟨hraised, -⟩ | ⟨-, hnext⟩
  · exact hsame.trans hset
  · exact hraised
  · exact absurd hnext hreset

/-- Settles O8: the step performs a word that is not legal, and of the writers of `ILLEGAL` only the reset drops it. -/
theorem illegalWordOnlySetsIllegal : Obligations.IllegalWordOnlySetsIllegal := by
  refine ⟨fun s w rest e hin hdec => ?_, fun s t hset hreset hstep =>
    (stepEffect_of_step hstep).illegal_of_not_resetNext hset hreset⟩
  have hillegal : ¬ legal w = true := Bool.eq_false_iff.mp (legal_eq_false_of_decode_error hdec)
  exact (step_of_inputs hin).trans (perform_command_of_not_legal hillegal (s.takeInput rest))

/-- `RESULT` after FRAME.DECODE: the first check that fails, in the order length, header, integrity (R206). -/
theorem State.afterDecode_result (s : State) : s.afterDecode.result =
    if s.flen ≠ 153 then 2
    else if s.fb.read 0 ≠ 0xAA ∨ s.fb.read 1 ≠ 0x55 then 3
    else if computeCrc16 (payloadOf s.fb) ≠ receivedCrc s.fb then 4
    else 1 := by
  split_ifs with hlen hheader hcrc
  · rw [State.afterDecode_of_wrong_length hlen]
  · have hbad : headerOk s.fb = false := (headerOk_eq_false_iff _).mpr (not_and_or.mpr hheader)
    rw [State.afterDecode_of_wrong_header (not_not.mp hlen) hbad]
  all_goals
    obtain ⟨hhdr0, hhdr1⟩ := not_or.mp hheader
    have hgood : headerOk s.fb = true := (headerOk_iff _).mpr ⟨not_not.mp hhdr0, not_not.mp hhdr1⟩
  · rw [State.afterDecode_of_wrong_crc (not_not.mp hlen) hgood hcrc]
  · rw [State.afterDecode_of_valid (not_not.mp hlen) hgood (not_not.mp hcrc)]

/-- Whatever the verdict, FRAME.DECODE leaves `ILLEGAL` (R27). -/
@[simp] theorem State.afterDecode_illegal (s : State) : s.afterDecode.illegal = s.illegal := s.decodeWith_illegal _ _

/-- A command finishes and does not write `ILLEGAL` (R27, R90). -/
theorem exists_exec_next_illegal (i : Instr) (s : State) :
    ∃ t : State, exec i s = .next t ∧ t.illegal = s.illegal := by
  cases i with
  | nop | crcInit | crcByte | frameClear | framePush => exact ⟨_, rfl, rfl⟩
  | frameDecode => exact ⟨_, exec_frameDecode s, s.afterDecode_illegal⟩

/-- Settles O33: the checks of FRAME.DECODE in their order, then the two kinds of error kept apart. -/
theorem firstFailingCheckIsReported : Obligations.FirstFailingCheckIsReported := by
  refine ⟨fun s => ⟨s.afterDecode, exec_frameDecode s, s.afterDecode_illegal, ?_⟩,
    fun s i => exists_exec_next_illegal i s, fun s w hillegal => ?_⟩
  · rw [← payloadOf_eq_map, ← receivedCrc_eq]
    exact s.afterDecode_result
  · exact ⟨s.raiseIllegalCommand, perform_command_of_not_legal (Bool.eq_false_iff.mp hillegal) s,
      s.raiseIllegalCommand_result, s.raiseIllegalCommand_illegal⟩

end Sys2Proof.Machine
end
